-- ==== Sys2Proof/Word.lean ====
section
/-! DEFINITION. The word types of the block and the names the spec gives to small enumerations.
All values are unsigned (00_scope.md section 6, R96, R105, R117). -/

namespace Sys2Proof

/-- The width of every whole register and of every 8-bit operand port (R40, R44, R62). -/
abbrev Byte := BitVec 8

/-- The command word `W[87:0]` (R64). -/
abbrev CommandWord := BitVec 88

/-- The pin routing operand of INIT (R81). -/
inductive Routing where
  | primary
  | alternate
deriving DecidableEq, Repr

/-- The two values of a pin direction field (R32); the spec gives them no numbers. -/
inductive Direction where
  | output
  | input
deriving DecidableEq, Repr

/-- The four named operating modes of the CAN peripheral (R29); their codes are `Mode.code`. -/
inductive Mode where
  | config
  | loopback
  | sleep
  | normal
deriving DecidableEq, Repr

/-- The five named message types (R74); their numbers are `MessageType.code`. -/
inductive MessageType where
  | normal
  | heartbeat
  | config
  | complex
  | complexReply
deriving DecidableEq, Repr

/-- The four named operations of the payload byte (R75); their numbers are `Operation.code`. -/
inductive Operation where
  | toggle
  | on
  | off
  | get
deriving DecidableEq, Repr

/-- The four values of `TS.code` (R13); their numbers are `StatusCode.code`. -/
inductive StatusCode where
  | ok
  | error
  | sending
  | nothingSent
deriving DecidableEq, Repr

/-- A filter bank number: the model has banks 0 and 1 only (R23, R136). -/
inductive BankNo where
  | zero
  | one
deriving DecidableEq, Repr

/-- The operands of SEND and SENDSYNC (R62, glossary "Message"): `dataLength` may hold 9 to 15, which the
operations refuse (R159); only the first `dataLength` bytes of `data` are ever used (R165). -/
structure Message where
  nodeID : Byte
  messageType : Byte
  dataLength : BitVec 4
  data : Vector Byte 8
deriving DecidableEq, Repr

end Sys2Proof
end

