-- ==== Sys2Proof/Config.lean ====
section
/-! DEFINITION. The implementation parameters of 00_scope.md section 5: the ones the spec leaves OPEN are constants
with no body (nothing can be proved of their value), the others have the default the spec gives. -/

namespace Sys2Proof

/-- TIMING_A_CONST (R82, R114): OPEN, so its value is free (log entry 5). -/
opaque Config.freeTimingA : Byte

/-- TIMING_B_CONST (R82, R114): OPEN, so its value is free (log entry 5). -/
opaque Config.freeTimingB : Byte

/-- TS_WIDTH (R15): OPEN, so its value is free (log entry 6). -/
opaque Config.freeTimestampWidth : Nat

/-- The parameters the spec says a model takes as arguments (00_scope.md section 5). A machine carries one value of
this record in its state and no step ever changes it, so a statement about every state is a statement about every
value of the parameters (log entry 4). -/
structure Params where
  /-- FMT_SEL_BIT, a bit of `low[4:0]` (R71), default 3. -/
  fmtSelBit : Fin 5 := 3
  /-- SUBRANGE_MASK_H (R78), default 0xF0. -/
  subrangeMaskH : Byte := 0xF0#8
  /-- SUBRANGE_MASK_L (R78), default 0x00. -/
  subrangeMaskL : Byte := 0x00#8
  /-- TIMING_A_CONST (R82). -/
  timingA : Byte := Config.freeTimingA
  /-- TIMING_B_CONST (R82). -/
  timingB : Byte := Config.freeTimingB
  /-- TS_WIDTH (R15). -/
  timestampWidth : Nat := Config.freeTimestampWidth
deriving DecidableEq, Repr

end Sys2Proof
end

