-- ==== Sys2Proof/Machine/Operands.lean ====
section
/-! DEFINITION. The operand forms: truncation to the width used (R62, R79), the numeric codes of the named values
(R73 to R76), the legal operand values (R116, R129, R159) and the two masks (R77, R78). -/

namespace Sys2Proof

/-- `trunc_1`, of errorFlag (R62). -/
def trunc1 (v : Byte) : BitVec 1 := v.setWidth 1

/-- `trunc_2`, of operation and firmwareVersion (R62). -/
def trunc2 (v : Byte) : BitVec 2 := v.setWidth 2

/-- `trunc_3`, of messageType, switchCounter and target (R62). -/
def trunc3 (v : Byte) : BitVec 3 := v.setWidth 3

/-- The mode codes (R29, R73). -/
def Mode.code : Mode → BitVec 3
  | .config => 0b100#3
  | .loopback => 0b010#3
  | .sleep => 0b001#3
  | .normal => 0b000#3

/-- The mode a 3-bit code names; 0b011, 0b101, 0b110 and 0b111 name none (R29). -/
def Mode.ofCode? (c : BitVec 3) : Option Mode :=
  if c = Mode.config.code then some .config
  else if c = Mode.loopback.code then some .loopback
  else if c = Mode.sleep.code then some .sleep
  else if c = Mode.normal.code then some .normal
  else none

/-- A target of SETMODE is legal when its low three bits are one of the four mode codes (R124, R129). -/
def legalTarget (target : Byte) : Bool := (Mode.ofCode? (trunc3 target)).isSome

/-- The numbers of the message types, in listing order (R74). -/
def MessageType.code : MessageType → BitVec 3
  | .normal => 0#3
  | .heartbeat => 1#3
  | .config => 2#3
  | .complex => 3#3
  | .complexReply => 4#3

/-- The name of a raw message type; 5, 6 and 7 have none, and naming is the host's (R74, R93). -/
def MessageType.ofCode? (c : BitVec 3) : Option MessageType :=
  if c = 0#3 then some .normal
  else if c = 1#3 then some .heartbeat
  else if c = 2#3 then some .config
  else if c = 3#3 then some .complex
  else if c = 4#3 then some .complexReply
  else none

/-- The numbers of the payload operations, in listing order (R75). -/
def Operation.code : Operation → BitVec 2
  | .toggle => 0#2
  | .on => 1#2
  | .off => 2#2
  | .get => 3#2

/-- The name of a raw operation: all four values have one (R75). -/
def Operation.ofCode (c : BitVec 2) : Operation :=
  if c = 0#2 then .toggle
  else if c = 1#2 then .on
  else if c = 2#2 then .off
  else .get

/-- The two bits of `TS.code` (R13, R76). -/
def StatusCode.code : StatusCode → BitVec 2
  | .ok => 0#2
  | .error => 1#2
  | .sending => 2#2
  | .nothingSent => 3#2

/-- The routing operand of INIT: 0 = PRIMARY, 1 = ALTERNATE (R81). -/
def Routing.code : Routing → BitVec 1
  | .primary => 0#1
  | .alternate => 1#1

/-- The routing a bit selects (R81). -/
def Routing.ofCode (b : BitVec 1) : Routing := if b = 0#1 then .primary else .alternate

/-- STRICT_MASK_H (R77). -/
def strictMaskH : Byte := 0xFF#8

/-- STRICT_MASK_L = 0xE0 | (1 << FMT_SEL_BIT), 0xE8 by default (R77). -/
def strictMaskL (p : Params) : Byte := 0xE0#8 ||| (1#8 <<< p.fmtSelBit.val)

/-- The bank a filter call selects: 0 if `FSC` = 0 and 1 otherwise (R136). -/
def bankFor (c : Byte) : BankNo := if c = 0#8 then .zero else .one

end Sys2Proof
end

