-- ==== Sys2Proof/Syntax.lean ====
section
/-! DEFINITION. The commands of the block: one constructor for each row of spec/opcode_table.json (R61), its operands
at the port widths of R62. -/

namespace Sys2Proof

/-- The twelve operations of R61. -/
inductive Instr where
  /-- HDR2B, R90 (opcode 0x0, format H). -/
  | hdr2b (nodeID messageType : Byte)
  /-- B2HDR, R91 (opcode 0x1, format Y). -/
  | b2hdr (high low : Byte)
  /-- PENC, R100 (opcode 0x2, format P). -/
  | penc (operation errorFlag firmwareVersion switchCounter : Byte)
  /-- PDECOP, R101 (opcode 0x3, format B). -/
  | pdecop (byte : Byte)
  /-- BAUD, R112 (opcode 0x4, format R). -/
  | baud (bitrate clock : BitVec 16)
  /-- INIT, R120 (opcode 0x5, format I). -/
  | init (routing : Routing)
  /-- SETMODE, R124 (opcode 0x6, format M). -/
  | setmode (target : Byte)
  /-- FSTRICT, R135 (opcode 0x7, format H). -/
  | fstrict (nodeID messageType : Byte)
  /-- FFIRST, R139 (opcode 0x8, format H). -/
  | ffirst (nodeID messageType : Byte)
  /-- AWAIT, R155 (opcode 0x9, format N). -/
  | await
  /-- SEND, R158 (opcode 0xA, format T). -/
  | send (message : Message)
  /-- SENDSYNC, R168 (opcode 0xB, format T). -/
  | sendsync (message : Message)
deriving DecidableEq, Repr

end Sys2Proof
end

