-- ==== Sys2Proof/WellFormed.lean ====
section
/-! DEFINITION. The commands the spec gives a meaning to: the operand values R66 lists as without meaning, although the word
is valid, are the ones left out. Every operand is of its port's width by its type (R62), so every other value is in. -/

namespace Sys2Proof

/-- bitrate is not 0 (R116), the target is a mode code (R129), dataLength is at most 8 (R159). -/
def Instr.wellFormed : Instr → Bool
  | .hdr2b _ _ => true
  | .b2hdr _ _ => true
  | .penc _ _ _ _ => true
  | .pdecop _ => true
  | .baud bitrate _ => bitrate != 0#16
  | .init _ => true
  | .setmode target => legalTarget target
  | .fstrict _ _ => true
  | .ffirst _ _ => true
  | .await => true
  | .send m => decide (m.dataLength ≤ 8#4)
  | .sendsync m => decide (m.dataLength ≤ 8#4)

end Sys2Proof
end

