-- ==== Sys2Proof/Decode.lean ====
section
/-! DEFINITION. Decoding and encoding of the 88-bit command word (R64 to R66), the opcode table's masks, and the data part of
the assembler's line (R67). -/

namespace Sys2Proof

/-- Why a word is INVALID (R65): a reserved opcode (0xC to 0xF), or a reserved bit of its format that is 1. -/
inductive Invalid where
  | reservedOpcode
  | reservedBit
deriving DecidableEq, Repr

/-- `W[lo+n-1 : lo]`. -/
def field (w : CommandWord) (lo n : Nat) : BitVec n := w.extractLsb' lo n

/-- Every bit from `top` up is reserved in the format of `i` and must be 0 (R64, R65). -/
def checkReserved (w : CommandWord) (top : Nat) (i : Instr) : Except Invalid Instr :=
  if w >>> top = 0#88 then .ok i else .error .reservedBit

/-- Format T: the message of SEND and SENDSYNC (R64). -/
def messageOf (w : CommandWord) : Message where
  nodeID := field w 4 8
  messageType := field w 12 8
  dataLength := field w 20 4
  data := #v[field w 24 8, field w 32 8, field w 40 8, field w 48 8, field w 56 8, field w 64 8, field w 72 8, field w 80 8]

/-- Decoding is total: one command with its operands, or INVALID (R65). The opcode is `W[3:0]` (R64, R61). -/
def decode (w : CommandWord) : Except Invalid Instr :=
  match (field w 0 4).toNat with
  | 0x0 => checkReserved w 20 (.hdr2b (field w 4 8) (field w 12 8))
  | 0x1 => checkReserved w 20 (.b2hdr (field w 4 8) (field w 12 8))
  | 0x2 => checkReserved w 36 (.penc (field w 4 8) (field w 12 8) (field w 20 8) (field w 28 8))
  | 0x3 => checkReserved w 12 (.pdecop (field w 4 8))
  | 0x4 => checkReserved w 36 (.baud (field w 4 16) (field w 20 16))
  | 0x5 => checkReserved w 5 (.init (Routing.ofCode (field w 4 1)))
  | 0x6 => checkReserved w 12 (.setmode (field w 4 8))
  | 0x7 => checkReserved w 20 (.fstrict (field w 4 8) (field w 12 8))
  | 0x8 => checkReserved w 20 (.ffirst (field w 4 8) (field w 12 8))
  | 0x9 => checkReserved w 4 .await
  | 0xA => .ok (.send (messageOf w))
  | 0xB => .ok (.sendsync (messageOf w))
  | _ => .error .reservedOpcode

/-- The operand `v` at `W[lo+n-1 : lo]`, every other bit 0. -/
def place {n : Nat} (lo : Nat) (v : BitVec n) : CommandWord := v.setWidth 88 <<< lo

/-- The word of a message: format T above its opcode (R64). -/
def encodeMessage (m : Message) (opcode : BitVec 4) : CommandWord :=
  place 0 opcode ||| place 4 m.nodeID ||| place 12 m.messageType ||| place 20 m.dataLength
    ||| place 24 m.data[0] ||| place 32 m.data[1] ||| place 40 m.data[2] ||| place 48 m.data[3]
    ||| place 56 m.data[4] ||| place 64 m.data[5] ||| place 72 m.data[6] ||| place 80 m.data[7]

/-- The command word of an instruction, its operands packed upward from bit 4 and its reserved bits 0 (R64). -/
def encode : Instr → CommandWord
  | .hdr2b nodeID messageType => place 0 0x0#4 ||| place 4 nodeID ||| place 12 messageType
  | .b2hdr high low => place 0 0x1#4 ||| place 4 high ||| place 12 low
  | .penc op err fw sc => place 0 0x2#4 ||| place 4 op ||| place 12 err ||| place 20 fw ||| place 28 sc
  | .pdecop byte => place 0 0x3#4 ||| place 4 byte
  | .baud bitrate clock => place 0 0x4#4 ||| place 4 bitrate ||| place 20 clock
  | .init routing => place 0 0x5#4 ||| place 4 routing.code
  | .setmode target => place 0 0x6#4 ||| place 4 target
  | .fstrict nodeID messageType => place 0 0x7#4 ||| place 4 nodeID ||| place 12 messageType
  | .ffirst nodeID messageType => place 0 0x8#4 ||| place 4 nodeID ||| place 12 messageType
  | .await => place 0 0x9#4
  | .send m => encodeMessage m 0xA#4
  | .sendsync m => encodeMessage m 0xB#4

/-- The opcode of an instruction (R61). -/
def Instr.opcode : Instr → BitVec 4
  | .hdr2b _ _ => 0x0#4
  | .b2hdr _ _ => 0x1#4
  | .penc _ _ _ _ => 0x2#4
  | .pdecop _ => 0x3#4
  | .baud _ _ => 0x4#4
  | .init _ => 0x5#4
  | .setmode _ => 0x6#4
  | .fstrict _ _ => 0x7#4
  | .ffirst _ _ => 0x8#4
  | .await => 0x9#4
  | .send _ => 0xA#4
  | .sendsync _ => 0xB#4

/-- A pure operation: it reads and writes no state, is not serialised and never blocks (R60, R61). -/
def Instr.isPure : Instr → Bool
  | .hdr2b _ _ => true
  | .b2hdr _ _ => true
  | .penc _ _ _ _ => true
  | .pdecop _ => true
  | .baud _ _ => false
  | .init _ => false
  | .setmode _ => false
  | .fstrict _ _ => false
  | .ffirst _ _ => false
  | .await => false
  | .send _ => false
  | .sendsync _ => false

/-- The (mask, match) pairs of spec/opcode_table.json, in its order: `W` is the row's command exactly when
`W & mask = match`. -/
def opcodeTable : List (CommandWord × CommandWord) :=
  [ (0xFFFFFFFFFFFFFFFFF0000F#88, 0x0#88), (0xFFFFFFFFFFFFFFFFF0000F#88, 0x1#88),
    (0xFFFFFFFFFFFFF00000000F#88, 0x2#88), (0xFFFFFFFFFFFFFFFFFFF00F#88, 0x3#88),
    (0xFFFFFFFFFFFFF00000000F#88, 0x4#88), (0xFFFFFFFFFFFFFFFFFFFFEF#88, 0x5#88),
    (0xFFFFFFFFFFFFFFFFFFF00F#88, 0x6#88), (0xFFFFFFFFFFFFFFFFF0000F#88, 0x7#88),
    (0xFFFFFFFFFFFFFFFFF0000F#88, 0x8#88), (0xFFFFFFFFFFFFFFFFFFFFFF#88, 0x9#88),
    (0x0000000000000000000F#88, 0xA#88), (0x0000000000000000000F#88, 0xB#88) ]

/-- The data operand of an assembler line (R67): the listed bytes, then the bytes given with `pad`, then zeros. -/
def assembleData (listed pad : List Byte) : Vector Byte 8 :=
  Vector.ofFn fun i => (listed ++ pad).getD i.val 0#8

/-- The instruction the decoder reads from the word whose bits are `w`, numbered as spec/opcode_table.json numbers them,
every bit from `nbits` up being 0. A command is one 88-bit word, so there is no byte order to undo. -/
def decodeTableWord (nbits w : Nat) : Option Instr :=
  match decode (BitVec.ofNat 88 (w % 2 ^ nbits)) with
  | .ok i => some i
  | .error _ => none

end Sys2Proof
end

