-- ==== Sys2Proof/Machine/State.lean ====
section
/-! DEFINITION. The state of the machine: the sequencer, the block-owned state, the register bank (10_state.md), the
command port and the turns of the three agents; the refusals; the state at reset. -/

namespace Sys2Proof.Machine

/-- The block has no fault: "Fault: the block has none; there is no trap and nothing the source calls a fault" (R191,
R180). So this closed type has no constructor. -/
inductive Fault where
deriving DecidableEq, Repr

/-- The closed list of reasons of R190, and the arm of an instruction that has no meaning yet. A refusal ends the run, so
that no claim can be proved of a run that contains it; every one of them is safe. -/
inductive Refusal where
  /-- An instruction without a meaning, rejected by name in `exec`; safe. No arm of this model raises it. -/
  | notModelled (mnemonic : String)
  /-- BAUD with bitrate 0 (R116); safe. -/
  | baudBitrateZero
  /-- SETMODE whose target's low three bits are no mode code (R129); safe. -/
  | setmodeReservedTarget
  /-- SEND or SENDSYNC with dataLength 9 to 15 (R159); safe. -/
  | sendLengthOver8
  /-- FSTRICT or FFIRST with `FSC` at 255 (R146); safe. -/
  | fscOverflow
  /-- A command word that decodes to INVALID (R66); raised by `step`; safe. -/
  | invalidCommandWord
  /-- FSTRICT or FFIRST before the first INIT: "refused before the first INIT" (R202; R37, D12, U8); safe. -/
  | statefulBeforeInit
deriving DecidableEq, Repr

/-! ### Step labels (R11): the labels of each operation's pseudocode -/

/-- The labels of BAUD (R112). -/
inductive BaudLabel where
  | s0 | s1 | s2
deriving DecidableEq, Repr

/-- The labels of INIT (R120). -/
inductive InitLabel where
  | s0 | s1 | s2 | s3 | s4
deriving DecidableEq, Repr

/-- The labels of SETMODE (R124). -/
inductive ModeLabel where
  | s0 | s1 | s2 | s3
deriving DecidableEq, Repr

/-- The labels of FSTRICT (R135). From `S1` to `S4` the sequencer holds `c`, the value of `FSC` read at `S0`. -/
inductive FilterLabel where
  | s0
  | s1 (c : Byte)
  | s2 (c : Byte)
  | s3 (c : Byte)
  | s4 (c : Byte)
  | s5 | s6 | s7
deriving DecidableEq, Repr

/-- The labels of FFIRST (R139): those of FSTRICT inlined, then `S8` and `S9`. -/
inductive FirstLabel where
  | strict (l : FilterLabel)
  | s8 | s9
deriving DecidableEq, Repr

/-- The labels of AWAIT (R155). -/
inductive AwaitLabel where
  | a0 | a1 | a2
deriving DecidableEq, Repr

/-- The labels of SEND (R158): `S0`, those of AWAIT inlined, `S1` to `S3`, `S4.i` and `S5`. -/
inductive SendLabel where
  | s0
  | wait (l : AwaitLabel)
  | s1 | s2 | s3
  | s4 (i : Fin 8)
  | s5
deriving DecidableEq, Repr

/-- The labels of SENDSYNC (R168): those of SEND inlined, then those of AWAIT a second time (`A0'` to `A2'`). -/
inductive SyncLabel where
  | send (l : SendLabel)
  | wait (l : AwaitLabel)
deriving DecidableEq, Repr

/-- `SEQ`, the sequencer state in the place of a program counter (R11): IDLE, or the command in progress with its operands
(sampled once at acceptance, R47) and its step label. The pure operations are never in progress (R60). -/
inductive Seq where
  | idle
  | baud (bitrate clock : BitVec 16) (l : BaudLabel)
  | init (routing : Routing) (l : InitLabel)
  | setmode (target : Byte) (l : ModeLabel)
  | fstrict (nodeID messageType : Byte) (l : FilterLabel)
  | ffirst (nodeID messageType : Byte) (l : FirstLabel)
  | await (l : AwaitLabel)
  | send (message : Message) (l : SendLabel)
  | sendsync (message : Message) (l : SyncLabel)
deriving DecidableEq, Repr

/-! ### The register bank (R17 to R33) -/

/-- The names by which `RegRead` and `RegWrite` address the numeric registers and fields of the bank (R35, R42 to R44). The
pin direction fields have values without numbers and are addressed by routing instead (`Bank.pins`). -/
inductive Reg where
  | txidH | txidL | txdlc
  | txd (i : Fin 8)
  | txreq | txerr | abortReq
  | filtH (n : BankNo)
  | filtL (n : BankNo)
  | filtEn (n : BankNo)
  | maskH | maskL | rxie0 | modeReq | modeStat | brp | timingA | timingB | driveEn
deriving DecidableEq, Repr

/-- One filter bank: `FILT_H[n]`, `FILT_L[n]` (R23) and `FILT_EN[n]` (R24). -/
structure FilterBank where
  idH : Byte
  idL : Byte
  en : BitVec 1
deriving DecidableEq, Repr

/-- The direction fields `DIR_TX[r]` and `DIR_RX[r]` of one routing (R32). -/
structure PinPair where
  tx : Direction
  rx : Direction
deriving DecidableEq, Repr

/-- The register bank: every register and field of the CAN peripheral the block touches (R17 to R33). -/
structure Bank where
  /-- `TXID_H`, `TXID_L` (R17). -/
  txidH : Byte
  txidL : Byte
  /-- `TXDLC` (R18). -/
  txdlc : BitVec 4
  /-- `TXD[0]` to `TXD[7]` (R19). -/
  txd : Vector Byte 8
  /-- `TXREQ` (R20). -/
  txreq : BitVec 1
  /-- `TXERR` (R21). -/
  txerr : BitVec 1
  /-- `ABORT_REQ` (R22). -/
  abortReq : BitVec 1
  /-- Filter bank 0 and filter bank 1 (R23, R24). -/
  filt0 : FilterBank
  filt1 : FilterBank
  /-- `MASK_H`, `MASK_L`: the one shared acceptance mask (R25). -/
  maskH : Byte
  maskL : Byte
  /-- `RXIE0` (R26). -/
  rxie0 : BitVec 1
  /-- `MODE_REQ` (R27). -/
  modeReq : BitVec 3
  /-- `MODE_STAT` (R28). -/
  modeStat : BitVec 3
  /-- `BRP` (R30). -/
  brp : BitVec 6
  /-- `TIMING_A`, `TIMING_B` (R31). -/
  timingA : Byte
  timingB : Byte
  /-- `DIR_TX[r]`, `DIR_RX[r]` for r = PRIMARY and r = ALTERNATE (R32). -/
  pinsPrimary : PinPair
  pinsAlternate : PinPair
  /-- `DRIVE_EN` (R33). -/
  driveEn : BitVec 1
deriving DecidableEq, Repr

/-! ### The command port, the result port and the other agents -/

/-- What a pure operation returns on the result port (R63): messageType and operation are raw numbers (R93). -/
inductive Result where
  | identifierBytes (high low : Byte)
  | header (messageType : BitVec 3) (nodeID : Byte)
  | payloadByte (byte : Byte)
  | operation (op : BitVec 2)
deriving DecidableEq, Repr

/-- A direct write of the host to the block-owned state or the register bank (R193: "nothing is protected from the host"): one item, one
register or one field (R44). -/
inductive DirectWrite where
  /-- `TS.code` <- c (R13). -/
  | code (c : StatusCode)
  /-- `TS.timestamp` <- v, kept to TS_WIDTH bits (R15). -/
  | timestamp (v : Nat)
  /-- `FSC` <- v (R16). -/
  | fsc (v : Byte)
  /-- A register or field of the bank <- v (R17 to R31, R33). -/
  | register (r : Reg) (v : Byte)
  /-- `DIR_TX[r]` <- d (R32). -/
  | dirTx (r : Routing) (d : Direction)
  /-- `DIR_RX[r]` <- d (R32). -/
  | dirRx (r : Routing) (d : Direction)
deriving DecidableEq, Repr

/-- One step of another agent in a run of the model: the liberties of the CAN peripheral (R48 to R51), of the host with its ISR (R186,
R32), and the direct writes of the host's main line (R193) but those the spec says no agent makes (log entry 21). -/
inductive Act where
  /-- PERIPH: `TXREQ` <- 0, a completed or aborted transmission (R48). -/
  | periphClearsTxreq
  /-- PERIPH: `TXERR` <- v (R49). -/
  | periphSetsTxerr (v : BitVec 1)
  /-- PERIPH: `ABORT_REQ` <- 0 (R50). -/
  | periphClearsAbort
  /-- PERIPH: `MODE_STAT` <- m, any 3-bit value (R51). -/
  | periphReportsMode (m : BitVec 3)
  /-- HOST: `TS.code` <- c (R186 (b), (d)). -/
  | hostWritesCode (c : StatusCode)
  /-- HOST: `TS.timestamp` <- v (R186 (b), (d)), kept to TS_WIDTH bits (R15). -/
  | hostWritesTimestamp (v : Nat)
  /-- HOST: the main line or the ISR evaluates a pure operation (R60, R186 (a), (b)). -/
  | hostEvaluates (i : Instr)
  /-- HOST: the pin setup excluded by R3 writes `DIR_TX[r]`, outside any command (R32); one field an access (R44). -/
  | hostSetsDirTx (r : Routing) (d : Direction)
  /-- HOST: the same of `DIR_RX[r]` (R32, R44). -/
  | hostSetsDirRx (r : Routing) (d : Direction)
  /-- HOST: the main line writes a register or field of the bank directly, outside any command (R193; log entries 20 and 21). -/
  | hostWritesRegister (r : Reg) (v : Byte)
deriving DecidableEq, Repr

/-- Whose turn it is next: another agent takes one step, or the block takes up to `k` micro-steps (R46). -/
inductive Turn where
  | agent (a : Act)
  | block (k : Nat)
deriving DecidableEq, Repr

/-- The state of the machine. -/
structure State where
  /-- The implementation parameters (00_scope.md section 5); no step changes them (log entry 4). -/
  params : Params
  /-- `SEQ` (R11). -/
  seq : Seq
  /-- `TS.code` (R13). -/
  tsCode : StatusCode
  /-- `TS.timestamp` (R15), a number below 2 ^ TS_WIDTH. -/
  timestamp : Nat
  /-- `FSC` (R16). -/
  fsc : Byte
  /-- Whether an INIT has written the block-owned state since power-on: the launch premise `InitDone` of R203. -/
  initDone : Bool
  /-- The register bank (R17 to R33). -/
  bank : Bank
  /-- The result last returned by a pure operation (R63); no operation reads it (R10). -/
  resultPort : Option Result
  /-- The command words the host's main line has still to present on the command port, in order (R60, R186 (a)). -/
  port : List CommandWord
  /-- The turns of the three agents, next first; when it is used up only the block moves (R46, log entry 2). -/
  agenda : List Turn
deriving DecidableEq, Repr

/-- The register bank at power-on: the spec gives no value (R37, R201), so every number is 0 and every pin an input (log
entry 1). -/
def Bank.powerOn : Bank where
  txidH := 0#8
  txidL := 0#8
  txdlc := 0#4
  txd := #v[0#8, 0#8, 0#8, 0#8, 0#8, 0#8, 0#8, 0#8]
  txreq := 0#1
  txerr := 0#1
  abortReq := 0#1
  filt0 := ⟨0#8, 0#8, 0#1⟩
  filt1 := ⟨0#8, 0#8, 0#1⟩
  maskH := 0#8
  maskL := 0#8
  rxie0 := 0#1
  modeReq := 0#3
  modeStat := 0#3
  brp := 0#6
  timingA := 0#8
  timingB := 0#8
  pinsPrimary := ⟨.input, .input⟩
  pinsAlternate := ⟨.input, .input⟩
  driveEn := 0#1

/-- Power-on, before the first INIT (R201): SEQ is IDLE (R11, R37), no INIT has run, nothing stands at the command port (R54);
the values of the other fields are the model's (log entry 1). -/
def State.reset : State where
  params := {}
  seq := .idle
  tsCode := .nothingSent
  timestamp := 0
  fsc := 0#8
  initDone := false
  bank := Bank.powerOn
  resultPort := none
  port := []
  agenda := []

end Sys2Proof.Machine
end

