-- ==== Sys2Proof/Machine/Ops.lean ====
section
/-! DEFINITION. The named operations over the state: `RegRead` and `RegWrite` of the register bank (R42 to R44), the pin
direction fields (R32), the block-owned state (R13 to R16), the sequencer's `goto` (R11), the result port (R63).
The block has no exception, no trap entry and no return from one (R180, R184), so there is no operation that takes one; an
input without meaning is refused (R190). -/

namespace Sys2Proof.Machine

/-- Filter bank `n` (R23). -/
def filterBank (b : Bank) : BankNo → FilterBank
  | .zero => b.filt0
  | .one => b.filt1

/-- Filter bank `n` replaced. -/
def setFilterBank (b : Bank) (n : BankNo) (f : FilterBank) : Bank :=
  match n with
  | .zero => { b with filt0 := f }
  | .one => { b with filt1 := f }

/-- `RegRead(NAME)`: the current value of the register or field, without side effect (R42); no access is wider than 8 bits
(R44). -/
def regRead (b : Bank) : Reg → Byte
  | .txidH => b.txidH
  | .txidL => b.txidL
  | .txdlc => b.txdlc.setWidth 8
  | .txd i => b.txd[i]
  | .txreq => b.txreq.setWidth 8
  | .txerr => b.txerr.setWidth 8
  | .abortReq => b.abortReq.setWidth 8
  | .filtH n => (filterBank b n).idH
  | .filtL n => (filterBank b n).idL
  | .filtEn n => (filterBank b n).en.setWidth 8
  | .maskH => b.maskH
  | .maskL => b.maskL
  | .rxie0 => b.rxie0.setWidth 8
  | .modeReq => b.modeReq.setWidth 8
  | .modeStat => b.modeStat.setWidth 8
  | .brp => b.brp.setWidth 8
  | .timingA => b.timingA
  | .timingB => b.timingB
  | .driveEn => b.driveEn.setWidth 8

/-- `RegWrite(NAME, v)`: the register or field takes `trunc_w(v)`, w its width, and no other field changes (R43). -/
def regWrite (b : Bank) (r : Reg) (v : Byte) : Bank :=
  match r with
  | .txidH => { b with txidH := v }
  | .txidL => { b with txidL := v }
  | .txdlc => { b with txdlc := v.setWidth 4 }
  | .txd i => { b with txd := b.txd.set i v }
  | .txreq => { b with txreq := v.setWidth 1 }
  | .txerr => { b with txerr := v.setWidth 1 }
  | .abortReq => { b with abortReq := v.setWidth 1 }
  | .filtH n => setFilterBank b n { filterBank b n with idH := v }
  | .filtL n => setFilterBank b n { filterBank b n with idL := v }
  | .filtEn n => setFilterBank b n { filterBank b n with en := v.setWidth 1 }
  | .maskH => { b with maskH := v }
  | .maskL => { b with maskL := v }
  | .rxie0 => { b with rxie0 := v.setWidth 1 }
  | .modeReq => { b with modeReq := v.setWidth 3 }
  | .modeStat => { b with modeStat := v.setWidth 3 }
  | .brp => { b with brp := v.setWidth 6 }
  | .timingA => { b with timingA := v }
  | .timingB => { b with timingB := v }
  | .driveEn => { b with driveEn := v.setWidth 1 }

/-- The width of a register or field (R44, R37). -/
def regWidth : Reg → Nat
  | .txidH => 8
  | .txidL => 8
  | .txdlc => 4
  | .txd _ => 8
  | .txreq => 1
  | .txerr => 1
  | .abortReq => 1
  | .filtH _ => 8
  | .filtL _ => 8
  | .filtEn _ => 1
  | .maskH => 8
  | .maskL => 8
  | .rxie0 => 1
  | .modeReq => 3
  | .modeStat => 3
  | .brp => 6
  | .timingA => 8
  | .timingB => 8
  | .driveEn => 1

/-- The direction fields of routing `r` (R32). -/
def pins (b : Bank) : Routing → PinPair
  | .primary => b.pinsPrimary
  | .alternate => b.pinsAlternate

/-- The direction fields of routing `r` replaced. -/
def setPins (b : Bank) (r : Routing) (p : PinPair) : Bank :=
  match r with
  | .primary => { b with pinsPrimary := p }
  | .alternate => { b with pinsAlternate := p }

/-- `RegWrite(DIR_TX[r], d)` (R32, R43). -/
def writeDirTx (b : Bank) (r : Routing) (d : Direction) : Bank := setPins b r { pins b r with tx := d }

/-- `RegWrite(DIR_RX[r], d)` (R32, R43). -/
def writeDirRx (b : Bank) (r : Routing) (d : Direction) : Bank := setPins b r { pins b r with rx := d }

/-- The bank after one micro-step, and SEQ at its next label. -/
def State.withBank (s : State) (b : Bank) : State := { s with bank := b }

/-- A `RegWrite` micro-step's effect on the state (R43). -/
def State.write (s : State) (r : Reg) (v : Byte) : State := s.withBank (regWrite s.bank r v)

/-- `goto`: SEQ takes the next label, or IDLE after a command's last micro-step (R11). -/
def State.goto (s : State) (q : Seq) : State := { s with seq := q }

/-- `TS.code` <- c (R13). -/
def State.setCode (s : State) (c : StatusCode) : State := { s with tsCode := c }

/-- `TS.timestamp` <- v, kept to TS_WIDTH bits (R15). -/
def State.setTimestamp (s : State) (v : Nat) : State := { s with timestamp := v % 2 ^ s.params.timestampWidth }

/-- `FSC` <- v (R16). -/
def State.setFsc (s : State) (v : Byte) : State := { s with fsc := v }

/-- `FSC` <- 0 by INIT, after which the block-owned state is written (R121, R203 `InitDone`). -/
def State.initFsc (s : State) : State := { s with fsc := 0#8, initDone := true }

/-- A pure operation's result leaves on the result port (R63). -/
def State.respond (s : State) (r : Result) : State := { s with resultPort := some r }

/-- SEQ is IDLE (R11). -/
def State.isIdle (s : State) : Bool := s.seq == .idle

end Sys2Proof.Machine
end

