-- ==== Sys2Proof/Machine/IdentifierCodec.lean ====
section
/-! DEFINITION. The Identifier Codec (40_identifier_codec.md): HDR2B and B2HDR. -/

namespace Sys2Proof.Machine

/-- HDR2B's pseudocode (R90): the 11-bit identifier split over the high byte and the top three bits of the low byte. -/
def headerToBytes (nodeID messageType : Byte) : Byte × Byte :=
  let id : BitVec 11 := ((trunc3 messageType).setWidth 11 <<< 8) ||| nodeID.setWidth 11
  (id.extractLsb' 3 8, (id.extractLsb' 0 3).setWidth 8 <<< 5)

/-- B2HDR's pseudocode (R91): `low[4:0]` is shifted out; messageType is the raw 3-bit number. -/
def bytesToHeader (high low : Byte) : BitVec 3 × Byte :=
  let w : BitVec 16 := (high.setWidth 16 <<< 8) ||| low.setWidth 16
  let id := w >>> 5
  ((id >>> 8).setWidth 3, (id &&& 0xFF#16).setWidth 8)

/-- What HDR2B returns. -/
def hdr2bResult (nodeID messageType : Byte) : Result :=
  .identifierBytes (headerToBytes nodeID messageType).1 (headerToBytes nodeID messageType).2

/-- What B2HDR returns. -/
def b2hdrResult (high low : Byte) : Result :=
  .header (bytesToHeader high low).1 (bytesToHeader high low).2

/-- HDR2B (R90): pure, so it runs whatever SEQ is (R60); only the result port shows it. -/
def execHdr2b (nodeID messageType : Byte) (s : State) : Host.Outcome State Fault Refusal :=
  .next (s.respond (hdr2bResult nodeID messageType))

/-- B2HDR (R91): pure, as HDR2B. -/
def execB2hdr (high low : Byte) (s : State) : Host.Outcome State Fault Refusal :=
  .next (s.respond (b2hdrResult high low))

end Sys2Proof.Machine
end

