-- ==== Sys2Proof/Machine/PayloadCodec.lean ====
section
/-! DEFINITION. The Payload Byte Codec (41_payload_codec.md): PENC and PDECOP. There is no decoder for the other three fields
(R103). -/

namespace Sys2Proof.Machine

/-- PENC's pseudocode (R100): each field masked to its width, then placed. -/
def encodePayload (operation errorFlag firmwareVersion switchCounter : Byte) : Byte :=
  ((trunc2 operation).setWidth 8 <<< 6) ||| ((trunc1 errorFlag).setWidth 8 <<< 5)
    ||| ((trunc2 firmwareVersion).setWidth 8 <<< 3) ||| (trunc3 switchCounter).setWidth 8

/-- PDECOP's pseudocode (R101): `byte >> 6`, two bits. -/
def decodeOperation (byte : Byte) : BitVec 2 := (byte >>> 6).setWidth 2

/-- What PENC returns. -/
def pencResult (operation errorFlag firmwareVersion switchCounter : Byte) : Result :=
  .payloadByte (encodePayload operation errorFlag firmwareVersion switchCounter)

/-- What PDECOP returns. -/
def pdecopResult (byte : Byte) : Result := .operation (decodeOperation byte)

/-- PENC (R100): pure, so it runs whatever SEQ is (R60); only the result port shows it. -/
def execPenc (operation errorFlag firmwareVersion switchCounter : Byte) (s : State) : Host.Outcome State Fault Refusal :=
  .next (s.respond (pencResult operation errorFlag firmwareVersion switchCounter))

/-- PDECOP (R101): pure, as PENC. -/
def execPdecop (byte : Byte) (s : State) : Host.Outcome State Fault Refusal :=
  .next (s.respond (pdecopResult byte))

end Sys2Proof.Machine
end

