-- ==== Sys2Proof/Machine/Agents.lean ====
section
/-! DEFINITION. The other two agents as far as the block's rules depend on them (R2, R4): what the peripheral may do (R48 to
R51) and reads (R52, R144), and what the host and its ISR may do (R186). -/

namespace Sys2Proof.Machine

/-- The result of a pure operation; a stateful one has none (R63). -/
def pureResult : Instr → Option Result
  | .hdr2b nodeID messageType => some (hdr2bResult nodeID messageType)
  | .b2hdr high low => some (b2hdrResult high low)
  | .penc op err fw sc => some (pencResult op err fw sc)
  | .pdecop byte => some (pdecopResult byte)
  | .baud _ _ => none
  | .init _ => none
  | .setmode _ => none
  | .fstrict _ _ => none
  | .ffirst _ _ => none
  | .await => none
  | .send _ => none
  | .sendsync _ => none

/-- A direct write by the host, without condition: nothing is protected from it (R193). This is the host's interface to the state, as
presenting a word on `port` is: it is used between two steps (`Move`). -/
def writeDirectly (w : DirectWrite) (s : State) : State :=
  match w with
  | .code c => s.setCode c
  | .timestamp v => s.setTimestamp v
  | .fsc v => s.setFsc v
  | .register r v => s.write r v
  | .dirTx r d => s.withBank (writeDirTx s.bank r d)
  | .dirRx r d => s.withBank (writeDirRx s.bank r d)

/-- The direct writes of the bank the host makes as a turn of the run: all but a 0 into a `FILT_EN[n]` ("No agent in the model writes 0",
R24) and a 1 into `TXREQ` ("only the block sets `TXREQ`", R161); `FSC` has no turn ("Owner: BLOCK only", R16; R53, R137). DESIGN CHOICE: these
rules say what agents do and R193 what the host is able to do; 90_conflicts.md has no ruling, and `writeDirectly` is R193 whole (log entry
21). -/
def hostMayWrite (r : Reg) (v : Byte) : Bool :=
  match r with
  | .filtEn _ => trunc1 v == 1#1
  | .txreq => trunc1 v == 0#1
  | _ => true

/-- One step of another agent. An evaluation of a stateful operation does nothing: the ISR issues none (R186 (c)), and the main line
issues it on the port (R186 (a)). The main line's direct writes (R193, and of the pins R32) are made outside any command: while one
is in progress they do nothing (log entry 20); the ones among them no agent makes are log entry 21. -/
def perform (a : Act) (s : State) : State :=
  match a with
  | .periphClearsTxreq => s.write .txreq 0#8
  | .periphSetsTxerr v => s.write .txerr (v.setWidth 8)
  | .periphClearsAbort => s.write .abortReq 0#8
  | .periphReportsMode m => s.write .modeStat (m.setWidth 8)
  | .hostWritesCode c => s.setCode c
  | .hostWritesTimestamp v => s.setTimestamp v
  | .hostEvaluates i => { s with resultPort := (pureResult i).or s.resultPort }
  | .hostSetsDirTx r d => if s.isIdle then s.withBank (writeDirTx s.bank r d) else s
  | .hostSetsDirRx r d => if s.isIdle then s.withBank (writeDirRx s.bank r d) else s
  | .hostWritesRegister r v => if s.isIdle && hostMayWrite r v then s.write r v else s

/-- Bank `n` accepts a frame with the identifier bytes (rh, rl), where `rl[FMT_SEL_BIT]` says its format (R144). -/
def bankAccepts (b : Bank) (n : BankNo) (rh rl : Byte) : Bool :=
  (filterBank b n).en == 1#1
    && ((rh ^^^ (filterBank b n).idH) &&& b.maskH) == 0#8
    && ((rl ^^^ (filterBank b n).idL) &&& b.maskL) == 0#8

/-- The peripheral accepts a frame if some bank accepts it (R144). -/
def accepts (b : Bank) (rh rl : Byte) : Bool := bankAccepts b .zero rh rl || bankAccepts b .one rh rl

/-- What the peripheral reads while `TXREQ` = 1 (R52): the identifier bytes and `TXD[0]` to `TXD[TXDLC-1]`. With `TXREQ` = 0 no
message is in its hands. The spec is silent on `TXDLC` 9 to 15 (R18: the block never writes them; a bank at power-on or the host may
hold them), for which R52 names registers that do not exist: DESIGN CHOICE, the eight that do are read (log entry 19). -/
def handedOver (b : Bank) : Option (Byte × Byte × List Byte) :=
  if b.txreq = 1#1 then some (b.txidH, b.txidL, b.txd.toList.take b.txdlc.toNat) else none

end Sys2Proof.Machine
end

