-- ==== Sys2Proof/Machine/Flags.lean ====
section
/-! DEFINITION. The conditions the block's control flow tests. The block has no condition codes and no arithmetic flags; the
only fields it tests are `TXREQ`, `TXERR`, `MODE_STAT` and `FSC` (R34). The test of `FSC` is `bankFor` (R136). -/

namespace Sys2Proof.Machine

/-- A read of `TXREQ` returns 1 (R155, A0). -/
def txreqSet (s : State) : Bool := s.bank.txreq == 1#1

/-- A read of `TXERR` returns 1 (R155, A1). -/
def txerrSet (s : State) : Bool := s.bank.txerr == 1#1

/-- A read of `MODE_STAT` returns `trunc_3(target)` (R124, S0 and S3); a reserved status code is just unequal (R73). -/
def modeReports (target : Byte) (s : State) : Bool := s.bank.modeStat == trunc3 target

end Sys2Proof.Machine
end

