-- ==== Sys2Proof/Machine/MicroSteps.lean ====
section
/-! DEFINITION. The micro-steps of the stateful operations, label by label as their pseudocode lists them; each is one register
access or one update of block-owned state (R4, R46). An inlined sub-sequence (R68) is one function used by both operations:
it answers the state after its micro-step and its own next label, `none` where the sub-sequence finishes. -/

namespace Sys2Proof.Machine

/-- BRPCALC (R110, R111): exact natural arithmetic, then `q - 1` taken modulo 64, so that q = 0 gives 63. -/
def brpCalc (bitrate clock : BitVec 16) : BitVec 6 :=
  BitVec.ofInt 6 (((1000 * clock.toNat) / (32 * bitrate.toNat) : Nat) - 1)

/-- BAUD (R112): `BRP`, `TIMING_A`, `TIMING_B`, in this order. -/
def microBaud (bitrate clock : BitVec 16) (l : BaudLabel) (s : State) : State :=
  match l with
  | .s0 => (s.write .brp ((brpCalc bitrate clock).setWidth 8)).goto (.baud bitrate clock .s1)
  | .s1 => (s.write .timingA s.params.timingA).goto (.baud bitrate clock .s2)
  | .s2 => (s.write .timingB s.params.timingB).goto .idle

/-- INIT (R120): the two direction fields of the routing selected, `DRIVE_EN`, `TS.code`, `FSC`. -/
def microInit (r : Routing) (l : InitLabel) (s : State) : State :=
  match l with
  | .s0 => (s.withBank (writeDirTx s.bank r .output)).goto (.init r .s1)
  | .s1 => (s.withBank (writeDirRx s.bank r .input)).goto (.init r .s2)
  | .s2 => (s.write .driveEn 1#8).goto (.init r .s3)
  | .s3 => (s.setCode .nothingSent).goto (.init r .s4)
  | .s4 => s.initFsc.goto .idle

/-- SETMODE (R124): the guard reads `MODE_STAT` (R125); every pass through S1 writes the request again (R126); S2 is the
no-op cycles, one micro-step that touches nothing, whatever NOP_COUNT is (R128); S3 reads again. -/
def microSetmode (target : Byte) (l : ModeLabel) (s : State) : State :=
  match l with
  | .s0 => s.goto (if modeReports target s then .idle else .setmode target .s1)
  | .s1 => (s.write .modeReq ((trunc3 target).setWidth 8)).goto (.setmode target .s2)
  | .s2 => s.goto (.setmode target .s3)
  | .s3 => s.goto (if modeReports target s then .idle else .setmode target .s1)

/-- FSTRICT's micro-steps (R135, R137), inlined in FFIRST (R139): the bank is chosen by the `FSC` read at S0 (R136). -/
def microFilter (nodeID messageType : Byte) (l : FilterLabel) (s : State) : State × Option FilterLabel :=
  match l with
  | .s0 => (s, some (.s1 s.fsc))
  | .s1 c => (s.write (.filtH (bankFor c)) (headerToBytes nodeID messageType).1, some (.s2 c))
  | .s2 c => (s.write (.filtL (bankFor c)) (headerToBytes nodeID messageType).2, some (.s3 c))
  | .s3 c => (s.write (.filtEn (bankFor c)) 1#8, some (.s4 c))
  | .s4 c => (s.setFsc (c + 1#8), some .s5)
  | .s5 => (s.write .maskH strictMaskH, some .s6)
  | .s6 => (s.write .maskL (strictMaskL s.params), some .s7)
  | .s7 => (s.write .rxie0 1#8, none)

/-- FSTRICT (R135). -/
def microFstrict (nodeID messageType : Byte) (l : FilterLabel) (s : State) : State :=
  match microFilter nodeID messageType l s with
  | (s', some l') => s'.goto (.fstrict nodeID messageType l')
  | (s', none) => s'.goto .idle

/-- FFIRST (R139): FSTRICT's micro-steps, then the subrange mask. -/
def microFfirst (nodeID messageType : Byte) (l : FirstLabel) (s : State) : State :=
  match l with
  | .strict l =>
    match microFilter nodeID messageType l s with
    | (s', some l') => s'.goto (.ffirst nodeID messageType (.strict l'))
    | (s', none) => s'.goto (.ffirst nodeID messageType .s8)
  | .s8 => (s.write .maskH s.params.subrangeMaskH).goto (.ffirst nodeID messageType .s9)
  | .s9 => (s.write .maskL s.params.subrangeMaskL).goto .idle

/-- AWAIT's micro-steps (R155), inlined in SEND and SENDSYNC: `TXREQ` alone ends the wait (R156); `TXERR` is read only after
`TXREQ` read 1, and the abort request never ends the wait (R157). -/
def microWait (l : AwaitLabel) (s : State) : State × Option AwaitLabel :=
  match l with
  | .a0 => (s, if txreqSet s then some .a1 else none)
  | .a1 => (s, some (if txerrSet s then .a2 else .a0))
  | .a2 => (s.write .abortReq 1#8, some .a0)

/-- AWAIT (R155). -/
def microAwait (l : AwaitLabel) (s : State) : State :=
  match microWait l s with
  | (s', some l') => s'.goto (.await l')
  | (s', none) => s'.goto .idle

/-- The label after `S3` or `S4.i`: `S4.n` while `n` is below dataLength, then `S5` (R158, R165). -/
def afterData (m : Message) (n : Nat) : SendLabel :=
  if h : n < 8 then (if n < m.dataLength.toNat then .s4 ⟨n, h⟩ else .s5) else .s5

/-- SEND's micro-steps (R158), inlined in SENDSYNC (R168). -/
def microMessage (m : Message) (l : SendLabel) (s : State) : State × Option SendLabel :=
  match l with
  | .s0 => (s.setCode .sending, some (.wait .a0))
  | .wait l =>
    match microWait l s with
    | (s', some l') => (s', some (.wait l'))
    | (s', none) => (s', some .s1)
  | .s1 => (s.write .txidH (headerToBytes m.nodeID m.messageType).1, some .s2)
  | .s2 => (s.write .txidL (headerToBytes m.nodeID m.messageType).2, some .s3)
  | .s3 => (s.write .txdlc (m.dataLength.setWidth 8), some (afterData m 0))
  | .s4 i => (s.write (.txd i) m.data[i], some (afterData m (i.val + 1)))
  | .s5 => (s.write .txreq 1#8, none)

/-- SEND (R158). -/
def microSend (m : Message) (l : SendLabel) (s : State) : State :=
  match microMessage m l s with
  | (s', some l') => s'.goto (.send m l')
  | (s', none) => s'.goto .idle

/-- SENDSYNC (R168): SEND's micro-steps, then AWAIT's a second time; `TS.code` is not touched again (R169). -/
def microSendsync (m : Message) (l : SyncLabel) (s : State) : State :=
  match l with
  | .send l =>
    match microMessage m l s with
    | (s', some l') => s'.goto (.sendsync m (.send l'))
    | (s', none) => s'.goto (.sendsync m (.wait .a0))
  | .wait l =>
    match microWait l s with
    | (s', some l') => s'.goto (.sendsync m (.wait l'))
    | (s', none) => s'.goto .idle

/-- One micro-step of the command in progress (R11, R46); at IDLE the block does nothing (R54). -/
def microStep (s : State) : State :=
  match s.seq with
  | .idle => s
  | .baud bitrate clock l => microBaud bitrate clock l s
  | .init r l => microInit r l s
  | .setmode target l => microSetmode target l s
  | .fstrict nodeID messageType l => microFstrict nodeID messageType l s
  | .ffirst nodeID messageType l => microFfirst nodeID messageType l s
  | .await l => microAwait l s
  | .send m l => microSend m l s
  | .sendsync m l => microSendsync m l s

end Sys2Proof.Machine
end

