-- ==== Sys2Proof/Machine/Sequencer.lean ====
section
/-! DEFINITION. The block's turn, and the acceptance of a command (R11, R46, R60). -/

namespace Sys2Proof.Machine

/-- `k` micro-steps with nothing between them; at IDLE they do nothing. -/
def microSteps : Nat → State → State
  | 0, s => s
  | k + 1, s => microSteps k (microStep s)

/-- The next micro-step is a poll that will read a value it has to wait on: `TXREQ` = 1 at A0 (R155), `MODE_STAT` not the target at
S0 or S3 (R124). -/
def pollFails (s : State) : Bool :=
  match s.seq with
  | .setmode target .s0 => !modeReports target s
  | .setmode target .s3 => !modeReports target s
  | .await .a0 => txreqSet s
  | .send _ (.wait .a0) => txreqSet s
  | .sendsync _ (.send (.wait .a0)) => txreqSet s
  | .sendsync _ (.wait .a0) => txreqSet s
  | _ => false

/-- Up to `k` micro-steps with no other agent between them, ending after a poll that failed: the command goes on polling at
the next step. -/
def runUndisturbed : Nat → State → State
  | 0, s => s
  | k + 1, s => if pollFails s then microStep s else runUndisturbed k (microStep s)

/-- No command takes more than 16 micro-steps without a poll that fails: SENDSYNC of eight bytes takes 16 from its label A1 to
its second A0. So an undisturbed turn ends at IDLE or after a failed poll (log entry 2). -/
def undisturbedBound : Nat := 16

/-- The block's turn (R46). `block k` at the head of the agenda: at most `k` micro-steps, then the next turn; at IDLE
they do nothing. An agenda that is used up: no other agent moves any more. Another agent at the head: it moves first, the block not at all. -/
def blockTurn (s : State) : State :=
  match s.agenda with
  | [] => runUndisturbed undisturbedBound s
  | .block k :: rest => microSteps k { s with agenda := rest }
  | .agent _ :: _ => s

/-- A stateful command presented on the port (R11, R60, R190, R191). SEQ not IDLE: it is not accepted, which is no error, and the
state stays. SEQ IDLE: a command without meaning is refused before its first micro-step, nothing written; any other sets SEQ to
its first label, and the block's turn begins. -/
def acceptCommand (first : Seq) (refusal : Option Refusal) (s : State) : Host.Outcome State Fault Refusal :=
  if s.isIdle then
    match refusal with
    | some r => .refused r
    | none => .next (blockTurn (s.goto first))
  else .next s

/-- Why BAUD has no meaning (R116). -/
def baudRefusal (bitrate : BitVec 16) : Option Refusal :=
  if bitrate = 0#16 then some .baudBitrateZero else none

/-- Why SETMODE has no meaning (R129). -/
def setmodeRefusal (target : Byte) : Option Refusal :=
  if legalTarget target then none else some .setmodeReservedTarget

/-- Why FSTRICT and FFIRST have no meaning: `FSC` not written by an INIT (R202), or at 255 (R146). -/
def filterRefusal (s : State) : Option Refusal :=
  if s.initDone then (if s.fsc = 255#8 then some .fscOverflow else none) else some .statefulBeforeInit

/-- Why SEND and SENDSYNC have no meaning (R159). -/
def messageRefusal (m : Message) : Option Refusal :=
  if m.dataLength ≤ 8#4 then none else some .sendLengthOver8

end Sys2Proof.Machine
end

