-- ==== Sys2Proof/Machine/BaudRate.lean ====
section
/-! DEFINITION. The Baud Rate Calculator's operation (42_baud_rate.md): BAUD; its micro-steps and BRPCALC are in MicroSteps. -/

namespace Sys2Proof.Machine

/-- BAUD (R112). -/
def execBaud (bitrate clock : BitVec 16) (s : State) : Host.Outcome State Fault Refusal :=
  acceptCommand (.baud bitrate clock .s0) (baudRefusal bitrate) s

end Sys2Proof.Machine
end

