-- ==== Sys2Proof/Machine/InitMode.lean ====
section
/-! DEFINITION. The Peripheral Initializer and the Mode Controller (43_init_and_mode.md): INIT and SETMODE. -/

namespace Sys2Proof.Machine

/-- INIT (R120): it has a meaning in every state, at any time SEQ is IDLE (R122). -/
def execInit (r : Routing) (s : State) : Host.Outcome State Fault Refusal :=
  acceptCommand (.init r .s0) none s

/-- SETMODE (R124); a reserved target is refused (R129). -/
def execSetmode (target : Byte) (s : State) : Host.Outcome State Fault Refusal :=
  acceptCommand (.setmode target .s0) (setmodeRefusal target) s

end Sys2Proof.Machine
end

