-- ==== Sys2Proof/Machine/ReceiveFilter.lean ====
section
/-! DEFINITION. The Receive Filter Manager (44_receive_filter.md): FSTRICT and FFIRST. -/

namespace Sys2Proof.Machine

/-- FSTRICT (R135); refused before INIT (R202) and with `FSC` at 255 (R146). -/
def execFstrict (nodeID messageType : Byte) (s : State) : Host.Outcome State Fault Refusal :=
  acceptCommand (.fstrict nodeID messageType .s0) (filterRefusal s) s

/-- FFIRST (R139); refused as FSTRICT. -/
def execFfirst (nodeID messageType : Byte) (s : State) : Host.Outcome State Fault Refusal :=
  acceptCommand (.ffirst nodeID messageType (.strict .s0)) (filterRefusal s) s

end Sys2Proof.Machine
end

