-- ==== Sys2Proof/Machine/TransmitEngine.lean ====
section
/-! DEFINITION. The Transmit Engine (45_transmit_engine.md): AWAIT, SEND and SENDSYNC. -/

namespace Sys2Proof.Machine

/-- AWAIT as a command of its own (R155). -/
def execAwait (s : State) : Host.Outcome State Fault Refusal :=
  acceptCommand (.await .a0) none s

/-- SEND (R158); dataLength 9 to 15 is refused before S0 (R159). -/
def execSend (m : Message) (s : State) : Host.Outcome State Fault Refusal :=
  acceptCommand (.send m .s0) (messageRefusal m) s

/-- SENDSYNC (R168); dataLength 9 to 15 is refused before S0 (R159). -/
def execSendsync (m : Message) (s : State) : Host.Outcome State Fault Refusal :=
  acceptCommand (.sendsync m (.send .s0)) (messageRefusal m) s

end Sys2Proof.Machine
end

