-- ==== Sys2Proof/Machine/Dispatch.lean ====
section
/-! DEFINITION. One arm per constructor of Instr, each a direct call of the instruction's meaning. -/

namespace Sys2Proof.Machine

/-- The meaning of an instruction. -/
def exec (i : Instr) (s : State) : Host.Outcome State Fault Refusal :=
  match i with
  | .hdr2b nodeID messageType => Sys2Proof.Machine.execHdr2b nodeID messageType s
  | .b2hdr high low => Sys2Proof.Machine.execB2hdr high low s
  | .penc op err fw sc => Sys2Proof.Machine.execPenc op err fw sc s
  | .pdecop byte => Sys2Proof.Machine.execPdecop byte s
  | .baud bitrate clock => Sys2Proof.Machine.execBaud bitrate clock s
  | .init r => Sys2Proof.Machine.execInit r s
  | .setmode target => Sys2Proof.Machine.execSetmode target s
  | .fstrict nodeID messageType => Sys2Proof.Machine.execFstrict nodeID messageType s
  | .ffirst nodeID messageType => Sys2Proof.Machine.execFfirst nodeID messageType s
  | .await => Sys2Proof.Machine.execAwait s
  | .send m => Sys2Proof.Machine.execSend m s
  | .sendsync m => Sys2Proof.Machine.execSendsync m s

end Sys2Proof.Machine
end

