-- ==== Sys2Proof/Machine/Fetch.lean ====
section
/-! DEFINITION. Taking a command word from the command port (R60): the port's own small operations. -/

namespace Sys2Proof.Machine

/-- The port takes a word when SEQ is IDLE; while a stateful command is in progress it takes a pure operation's word only, for those
are not serialised (R60, R192). A stateful command, or an INVALID word, waits (R191). -/
def portTakes (s : State) (d : Except Invalid Instr) : Bool :=
  s.isIdle ||
    match d with
    | .ok i => i.isPure
    | .error _ => false

/-- What the word the host presents decodes to, and the state after the port took it; `none` if nothing is presented or the word has
to wait. -/
def fetchWord (s : State) : Option (Except Invalid Instr × State) :=
  match s.port with
  | [] => none
  | w :: rest => if portTakes s (decode w) then some (decode w, { s with port := rest }) else none

/-- Another agent's turn comes first. -/
def agentFirst : Turn → Bool
  | .agent _ => true
  | .block _ => false

end Sys2Proof.Machine
end

