-- ==== Sys2Proof/Machine/Step.lean ====
section
/-! DEFINITION. One step of the machine, and the presenting of a command word on its port. -/

namespace Sys2Proof.Machine

/-- One step. Another agent's turn: it takes its step (R46). Otherwise the word on the port, if the port takes it, is decoded and its
command executed, INVALID is refused (R66); a pure operation is taken in any SEQ and uses up no turn of the block (R60). Otherwise it is
the block's turn: its micro-steps go on, and at IDLE it does nothing (R54). -/
def step (s : State) : Host.Outcome State Fault Refusal :=
  match s.agenda with
  | .agent a :: rest => .next (perform a { s with agenda := rest })
  | _ =>
    match fetchWord s with
    | some (.ok i, s') => exec i s'
    | some (.error _, _) => .refused .invalidCommandWord
    | none => .next (blockTurn s)

/-- `s` with the word `w` (its bits from `nbits` up being 0) presented first on the command port, SEQ IDLE and no other agent's turn
before the block's, so that the very next step takes and executes it. -/
def State.withFetchWord (s : State) (nbits w : Nat) : State :=
  { s with
    seq := .idle
    port := BitVec.ofNat 88 (w % 2 ^ nbits) :: s.port.tail
    agenda := s.agenda.dropWhile agentFirst }

end Sys2Proof.Machine
end

