-- ==== Sys2Proof/Laws/State.lean ====
section
/-! SUPPORT. One lemma per field per update of the state, each true by unfolding, so that no proof unfolds a record update. -/

namespace Sys2Proof.Machine

variable (s : State)

/-! ### `State.withBank` -/

@[simp] theorem State.withBank_params (b : Bank) : (s.withBank b).params = s.params := rfl
@[simp] theorem State.withBank_seq (b : Bank) : (s.withBank b).seq = s.seq := rfl
@[simp] theorem State.withBank_tsCode (b : Bank) : (s.withBank b).tsCode = s.tsCode := rfl
@[simp] theorem State.withBank_timestamp (b : Bank) : (s.withBank b).timestamp = s.timestamp := rfl
@[simp] theorem State.withBank_fsc (b : Bank) : (s.withBank b).fsc = s.fsc := rfl
@[simp] theorem State.withBank_initDone (b : Bank) : (s.withBank b).initDone = s.initDone := rfl
@[simp] theorem State.withBank_bank (b : Bank) : (s.withBank b).bank = b := rfl
@[simp] theorem State.withBank_resultPort (b : Bank) : (s.withBank b).resultPort = s.resultPort := rfl
@[simp] theorem State.withBank_port (b : Bank) : (s.withBank b).port = s.port := rfl
@[simp] theorem State.withBank_agenda (b : Bank) : (s.withBank b).agenda = s.agenda := rfl

/-! ### `State.write` -/

@[simp] theorem State.write_params (r : Reg) (v : Byte) : (s.write r v).params = s.params := rfl
@[simp] theorem State.write_seq (r : Reg) (v : Byte) : (s.write r v).seq = s.seq := rfl
@[simp] theorem State.write_tsCode (r : Reg) (v : Byte) : (s.write r v).tsCode = s.tsCode := rfl
@[simp] theorem State.write_timestamp (r : Reg) (v : Byte) : (s.write r v).timestamp = s.timestamp := rfl
@[simp] theorem State.write_fsc (r : Reg) (v : Byte) : (s.write r v).fsc = s.fsc := rfl
@[simp] theorem State.write_initDone (r : Reg) (v : Byte) : (s.write r v).initDone = s.initDone := rfl
@[simp] theorem State.write_bank (r : Reg) (v : Byte) : (s.write r v).bank = regWrite s.bank r v := rfl
@[simp] theorem State.write_resultPort (r : Reg) (v : Byte) : (s.write r v).resultPort = s.resultPort := rfl
@[simp] theorem State.write_port (r : Reg) (v : Byte) : (s.write r v).port = s.port := rfl
@[simp] theorem State.write_agenda (r : Reg) (v : Byte) : (s.write r v).agenda = s.agenda := rfl

/-! ### `State.goto` -/

@[simp] theorem State.goto_params (q : Seq) : (s.goto q).params = s.params := rfl
@[simp] theorem State.goto_seq (q : Seq) : (s.goto q).seq = q := rfl
@[simp] theorem State.goto_tsCode (q : Seq) : (s.goto q).tsCode = s.tsCode := rfl
@[simp] theorem State.goto_timestamp (q : Seq) : (s.goto q).timestamp = s.timestamp := rfl
@[simp] theorem State.goto_fsc (q : Seq) : (s.goto q).fsc = s.fsc := rfl
@[simp] theorem State.goto_initDone (q : Seq) : (s.goto q).initDone = s.initDone := rfl
@[simp] theorem State.goto_bank (q : Seq) : (s.goto q).bank = s.bank := rfl
@[simp] theorem State.goto_resultPort (q : Seq) : (s.goto q).resultPort = s.resultPort := rfl
@[simp] theorem State.goto_port (q : Seq) : (s.goto q).port = s.port := rfl
@[simp] theorem State.goto_agenda (q : Seq) : (s.goto q).agenda = s.agenda := rfl

/-! ### `State.setCode` -/

@[simp] theorem State.setCode_params (c : StatusCode) : (s.setCode c).params = s.params := rfl
@[simp] theorem State.setCode_seq (c : StatusCode) : (s.setCode c).seq = s.seq := rfl
@[simp] theorem State.setCode_tsCode (c : StatusCode) : (s.setCode c).tsCode = c := rfl
@[simp] theorem State.setCode_timestamp (c : StatusCode) : (s.setCode c).timestamp = s.timestamp := rfl
@[simp] theorem State.setCode_fsc (c : StatusCode) : (s.setCode c).fsc = s.fsc := rfl
@[simp] theorem State.setCode_initDone (c : StatusCode) : (s.setCode c).initDone = s.initDone := rfl
@[simp] theorem State.setCode_bank (c : StatusCode) : (s.setCode c).bank = s.bank := rfl
@[simp] theorem State.setCode_resultPort (c : StatusCode) : (s.setCode c).resultPort = s.resultPort := rfl
@[simp] theorem State.setCode_port (c : StatusCode) : (s.setCode c).port = s.port := rfl
@[simp] theorem State.setCode_agenda (c : StatusCode) : (s.setCode c).agenda = s.agenda := rfl

/-! ### `State.setTimestamp` -/

@[simp] theorem State.setTimestamp_params (v : Nat) : (s.setTimestamp v).params = s.params := rfl
@[simp] theorem State.setTimestamp_seq (v : Nat) : (s.setTimestamp v).seq = s.seq := rfl
@[simp] theorem State.setTimestamp_tsCode (v : Nat) : (s.setTimestamp v).tsCode = s.tsCode := rfl
@[simp] theorem State.setTimestamp_timestamp (v : Nat) : (s.setTimestamp v).timestamp = v % 2 ^ s.params.timestampWidth := rfl
@[simp] theorem State.setTimestamp_fsc (v : Nat) : (s.setTimestamp v).fsc = s.fsc := rfl
@[simp] theorem State.setTimestamp_initDone (v : Nat) : (s.setTimestamp v).initDone = s.initDone := rfl
@[simp] theorem State.setTimestamp_bank (v : Nat) : (s.setTimestamp v).bank = s.bank := rfl
@[simp] theorem State.setTimestamp_resultPort (v : Nat) : (s.setTimestamp v).resultPort = s.resultPort := rfl
@[simp] theorem State.setTimestamp_port (v : Nat) : (s.setTimestamp v).port = s.port := rfl
@[simp] theorem State.setTimestamp_agenda (v : Nat) : (s.setTimestamp v).agenda = s.agenda := rfl

/-! ### `State.setFsc` -/

@[simp] theorem State.setFsc_params (v : Byte) : (s.setFsc v).params = s.params := rfl
@[simp] theorem State.setFsc_seq (v : Byte) : (s.setFsc v).seq = s.seq := rfl
@[simp] theorem State.setFsc_tsCode (v : Byte) : (s.setFsc v).tsCode = s.tsCode := rfl
@[simp] theorem State.setFsc_timestamp (v : Byte) : (s.setFsc v).timestamp = s.timestamp := rfl
@[simp] theorem State.setFsc_fsc (v : Byte) : (s.setFsc v).fsc = v := rfl
@[simp] theorem State.setFsc_initDone (v : Byte) : (s.setFsc v).initDone = s.initDone := rfl
@[simp] theorem State.setFsc_bank (v : Byte) : (s.setFsc v).bank = s.bank := rfl
@[simp] theorem State.setFsc_resultPort (v : Byte) : (s.setFsc v).resultPort = s.resultPort := rfl
@[simp] theorem State.setFsc_port (v : Byte) : (s.setFsc v).port = s.port := rfl
@[simp] theorem State.setFsc_agenda (v : Byte) : (s.setFsc v).agenda = s.agenda := rfl

/-! ### `State.initFsc` -/

@[simp] theorem State.initFsc_params : (s.initFsc).params = s.params := rfl
@[simp] theorem State.initFsc_seq : (s.initFsc).seq = s.seq := rfl
@[simp] theorem State.initFsc_tsCode : (s.initFsc).tsCode = s.tsCode := rfl
@[simp] theorem State.initFsc_timestamp : (s.initFsc).timestamp = s.timestamp := rfl
@[simp] theorem State.initFsc_fsc : (s.initFsc).fsc = 0#8 := rfl
@[simp] theorem State.initFsc_initDone : (s.initFsc).initDone = true := rfl
@[simp] theorem State.initFsc_bank : (s.initFsc).bank = s.bank := rfl
@[simp] theorem State.initFsc_resultPort : (s.initFsc).resultPort = s.resultPort := rfl
@[simp] theorem State.initFsc_port : (s.initFsc).port = s.port := rfl
@[simp] theorem State.initFsc_agenda : (s.initFsc).agenda = s.agenda := rfl

/-! ### `State.respond` -/

@[simp] theorem State.respond_params (r : Result) : (s.respond r).params = s.params := rfl
@[simp] theorem State.respond_seq (r : Result) : (s.respond r).seq = s.seq := rfl
@[simp] theorem State.respond_tsCode (r : Result) : (s.respond r).tsCode = s.tsCode := rfl
@[simp] theorem State.respond_timestamp (r : Result) : (s.respond r).timestamp = s.timestamp := rfl
@[simp] theorem State.respond_fsc (r : Result) : (s.respond r).fsc = s.fsc := rfl
@[simp] theorem State.respond_initDone (r : Result) : (s.respond r).initDone = s.initDone := rfl
@[simp] theorem State.respond_bank (r : Result) : (s.respond r).bank = s.bank := rfl
@[simp] theorem State.respond_resultPort (r : Result) : (s.respond r).resultPort = some r := rfl
@[simp] theorem State.respond_port (r : Result) : (s.respond r).port = s.port := rfl
@[simp] theorem State.respond_agenda (r : Result) : (s.respond r).agenda = s.agenda := rfl

end Sys2Proof.Machine
end

