-- ==== Sys2Proof/Laws/Ops.lean ====
section
/-! SUPPORT. The laws of the register bank: reading after writing (R42, R43), and what a write of one filter bank or one pin pair
leaves alone. -/

namespace Sys2Proof.Machine

@[simp] theorem filterBank_setFilterBank_same (b : Bank) (n : BankNo) (f : FilterBank) :
    filterBank (setFilterBank b n f) n = f := by cases n <;> rfl

theorem filterBank_setFilterBank_other (b : Bank) {n m : BankNo} (f : FilterBank) (h : m ≠ n) :
    filterBank (setFilterBank b n f) m = filterBank b m := by
  cases n <;> cases m <;> first | rfl | exact absurd rfl h

@[simp] theorem pins_setPins_same (b : Bank) (r : Routing) (p : PinPair) : pins (setPins b r p) r = p := by
  cases r <;> rfl

theorem pins_setPins_other (b : Bank) {r q : Routing} (p : PinPair) (h : q ≠ r) : pins (setPins b r p) q = pins b q := by
  cases r <;> cases q <;> first | rfl | exact absurd rfl h

@[simp] theorem setFilterBank_self (b : Bank) (n : BankNo) : setFilterBank b n (filterBank b n) = b := by
  cases n <;> rfl

@[simp] theorem setFilterBank_setFilterBank (b : Bank) (n : BankNo) (f g : FilterBank) :
    setFilterBank (setFilterBank b n f) n g = setFilterBank b n g := by
  cases n <;> rfl

@[simp] theorem setPins_self (b : Bank) (r : Routing) : setPins b r (pins b r) = b := by
  cases r <;> rfl

@[simp] theorem setPins_setPins (b : Bank) (r : Routing) (p q : PinPair) :
    setPins (setPins b r p) r q = setPins b r q := by
  cases r <;> rfl

/-- A register reads as the low bits, of its own width, of what was written to it (R43). -/
theorem regRead_regWrite_same (b : Bank) (r : Reg) (v : Byte) :
    (regRead (regWrite b r v) r).toNat = v.toNat % 2 ^ regWidth r := by
  have h := v.isLt
  cases r <;> simp [regRead, regWrite, regWidth] <;> omega

/-- The pin direction fields are no target of a numeric write. -/
theorem pins_regWrite (b : Bank) (r : Reg) (v : Byte) (q : Routing) : pins (regWrite b r v) q = pins b q := by
  cases q <;> cases r <;> first | rfl | (rename_i n; cases n <;> rfl)

/-- Two writes of one register: the second alone counts (R45). -/
theorem regWrite_regWrite (b : Bank) (r : Reg) (v w : Byte) : regWrite (regWrite b r v) r w = regWrite b r w := by
  cases r <;> simp [regWrite]

end Sys2Proof.Machine
end

