-- ==== Sys2Proof/Laws/MicroSteps.lean ====
section
/-! SUPPORT. What one micro-step of each command can change, and nothing else: the frame of every micro-step function, and the
frame of a step of another agent. -/

namespace Sys2Proof.Machine

variable (s : State)

/-- BAUD's micro-steps touch SEQ, `BRP` and the timing registers. -/
theorem microBaud_frame (bitrate clock : BitVec 16) (l : BaudLabel) :
    let t := microBaud bitrate clock l s
    t = { s with
      seq := t.seq, bank := { s.bank with brp := t.bank.brp, timingA := t.bank.timingA, timingB := t.bank.timingB } } := by
  cases l <;> rfl

/-- INIT's micro-steps touch SEQ, the pins of the routing, `DRIVE_EN`, `TS.code` and `FSC`. -/
theorem microInit_frame (r : Routing) (l : InitLabel) :
    let t := microInit r l s
    t = { s with
      seq := t.seq, tsCode := t.tsCode, fsc := t.fsc, initDone := t.initDone
      bank := { setPins s.bank r (pins t.bank r) with driveEn := t.bank.driveEn } } := by
  cases l <;> cases r <;> rfl

/-- SETMODE's micro-steps touch SEQ and `MODE_REQ`. -/
theorem microSetmode_frame (target : Byte) (l : ModeLabel) :
    let t := microSetmode target l s
    t = { s with seq := t.seq, bank := { s.bank with modeReq := t.bank.modeReq } } := by
  cases l <;> rfl

/-- The filter micro-steps touch `FSC`, one filter bank, the mask and `RXIE0`; not SEQ, which their callers set. -/
theorem microFilter_frame (nodeID messageType : Byte) (l : FilterLabel) :
    let t := (microFilter nodeID messageType l s).1
    t = { s with
      fsc := t.fsc
      bank := { s.bank with
        filt0 := t.bank.filt0, filt1 := t.bank.filt1, maskH := t.bank.maskH, maskL := t.bank.maskL, rxie0 := t.bank.rxie0 } } := by
  cases l with
  | s1 c => cases h : bankFor c <;> simp [microFilter, State.write, State.withBank, regWrite, setFilterBank, h]
  | s2 c => cases h : bankFor c <;> simp [microFilter, State.write, State.withBank, regWrite, setFilterBank, h]
  | s3 c => cases h : bankFor c <;> simp [microFilter, State.write, State.withBank, regWrite, setFilterBank, h]
  | _ => rfl

/-- The micro-steps of the wait touch `ABORT_REQ` alone. -/
theorem microWait_frame (l : AwaitLabel) :
    let t := (microWait l s).1
    t = { s with bank := { s.bank with abortReq := t.bank.abortReq } } := by
  cases l <;> rfl

/-- The wait ends exactly at A0 with `TXREQ` = 0. -/
theorem microWait_ends (l : AwaitLabel) : (microWait l s).2 = none ↔ l = .a0 ∧ s.bank.txreq ≠ 1#1 := by
  cases l <;> simp [microWait, txreqSet]

/-- SEND's micro-steps touch `TS.code`, the transmit buffer, `TXREQ` and `ABORT_REQ`; not SEQ, which their callers set. -/
theorem microMessage_frame (m : Message) (l : SendLabel) :
    let t := (microMessage m l s).1
    t = { s with
      tsCode := t.tsCode
      bank := { s.bank with
        txidH := t.bank.txidH, txidL := t.bank.txidL, txdlc := t.bank.txdlc, txd := t.bank.txd, txreq := t.bank.txreq
        abortReq := t.bank.abortReq } } := by
  cases l with
  | wait l => cases l <;> simp only [microMessage] <;> split <;> rename_i h <;> simp [microWait] at h <;>
      obtain ⟨rfl, -⟩ := h <;> rfl
  | _ => rfl

/-- A micro-step of any command leaves the parameters, the timestamp, the ports and the agenda. -/
theorem microStep_frame : (microStep s).params = s.params ∧ (microStep s).timestamp = s.timestamp ∧
    (microStep s).resultPort = s.resultPort ∧ (microStep s).port = s.port ∧ (microStep s).agenda = s.agenda := by
  unfold microStep
  split
  · exact ⟨rfl, rfl, rfl, rfl, rfl⟩
  · rw [microBaud_frame]; exact ⟨rfl, rfl, rfl, rfl, rfl⟩
  · rw [microInit_frame]; exact ⟨rfl, rfl, rfl, rfl, rfl⟩
  · rw [microSetmode_frame]; exact ⟨rfl, rfl, rfl, rfl, rfl⟩
  · rename_i n mt l _
    have h := microFilter_frame s n mt l
    unfold microFstrict
    split <;> rename_i e <;> rw [e] at h <;> simp only at h <;> rw [h] <;> exact ⟨rfl, rfl, rfl, rfl, rfl⟩
  · rename_i n mt l _
    cases l with
    | strict l =>
      have h := microFilter_frame s n mt l
      simp only [microFfirst]
      split <;> rename_i e <;> rw [e] at h <;> simp only at h <;> rw [h] <;> exact ⟨rfl, rfl, rfl, rfl, rfl⟩
    | _ => exact ⟨rfl, rfl, rfl, rfl, rfl⟩
  · rename_i l _
    have h := microWait_frame s l
    unfold microAwait
    split <;> rename_i e <;> rw [e] at h <;> simp only at h <;> rw [h] <;> exact ⟨rfl, rfl, rfl, rfl, rfl⟩
  · rename_i m l _
    have h := microMessage_frame s m l
    unfold microSend
    split <;> rename_i e <;> rw [e] at h <;> simp only at h <;> rw [h] <;> exact ⟨rfl, rfl, rfl, rfl, rfl⟩
  · rename_i m l _
    cases l with
    | send l =>
      have h := microMessage_frame s m l
      simp only [microSendsync]
      split <;> rename_i e <;> rw [e] at h <;> simp only at h <;> rw [h] <;> exact ⟨rfl, rfl, rfl, rfl, rfl⟩
    | wait l =>
      have h := microWait_frame s l
      simp only [microSendsync]
      split <;> rename_i e <;> rw [e] at h <;> simp only at h <;> rw [h] <;> exact ⟨rfl, rfl, rfl, rfl, rfl⟩

/-- A step of another agent leaves the parameters, SEQ, the record of INIT, the port and the agenda. -/
theorem perform_frame (a : Act) : (perform a s).params = s.params ∧ (perform a s).seq = s.seq ∧
    (perform a s).initDone = s.initDone ∧ (perform a s).port = s.port ∧ (perform a s).agenda = s.agenda := by
  cases a with
  | hostSetsDirTx r d => simp only [perform]; split <;> exact ⟨rfl, rfl, rfl, rfl, rfl⟩
  | hostSetsDirRx r d => simp only [perform]; split <;> exact ⟨rfl, rfl, rfl, rfl, rfl⟩
  | hostWritesRegister r v => simp only [perform]; split <;> exact ⟨rfl, rfl, rfl, rfl, rfl⟩
  | _ => exact ⟨rfl, rfl, rfl, rfl, rfl⟩

/-- No step of another agent writes `FSC` (R16, R53). -/
theorem perform_fsc (a : Act) : (perform a s).fsc = s.fsc := by
  cases a with
  | hostSetsDirTx r d => simp only [perform]; split <;> rfl
  | hostSetsDirRx r d => simp only [perform]; split <;> rfl
  | hostWritesRegister r v => simp only [perform]; split <;> rfl
  | _ => rfl

/-- No step of another agent clears a bank's enable (R24). -/
theorem perform_filtEn (a : Act) (n : BankNo) (h : (filterBank s.bank n).en = 1#1) : (filterBank (perform a s).bank n).en = 1#1 := by
  cases a with
  | hostSetsDirTx r d => simp only [perform]; split <;> cases n <;> cases r <;> exact h
  | hostSetsDirRx r d => simp only [perform]; split <;> cases n <;> cases r <;> exact h
  | hostWritesRegister r v =>
    simp only [perform]
    split
    · rename_i hw
      cases r with
      | filtEn m => simp [hostMayWrite, trunc1] at hw; cases n <;> cases m <;> simp_all [filterBank, State.write, State.withBank, regWrite, setFilterBank]
      | filtH m => cases n <;> cases m <;> exact h
      | filtL m => cases n <;> cases m <;> exact h
      | _ => cases n <;> exact h
    · exact h
  | _ => cases n <;> exact h

/-- No step of another agent sets `TXREQ` (R20, R48, R161). -/
theorem perform_txreq (a : Act) (h : s.bank.txreq = 0#1) : (perform a s).bank.txreq = 0#1 := by
  cases a with
  | periphClearsTxreq => rfl
  | hostSetsDirTx r d => simp only [perform]; split <;> cases r <;> exact h
  | hostSetsDirRx r d => simp only [perform]; split <;> cases r <;> exact h
  | hostWritesRegister r v =>
    simp only [perform]
    split
    · rename_i hw
      cases r with
      | txreq => simp [hostMayWrite, trunc1] at hw; exact hw.2
      | filtEn m => cases m <;> exact h
      | filtH m => cases m <;> exact h
      | filtL m => cases m <;> exact h
      | _ => exact h
    · exact h
  | _ => exact h

/-- A direct write of the host touches the block-owned state and the bank, and never SEQ, the record of INIT or the ports. -/
theorem writeDirectly_frame (w : DirectWrite) :
    let t := writeDirectly w s
    t = { s with tsCode := t.tsCode, timestamp := t.timestamp, fsc := t.fsc, bank := t.bank } := by
  cases w <;> rfl

/-- While a command is in progress no other agent writes `FSC`, the host writes nothing of the bank, and the peripheral its own
fields only. -/
theorem perform_busy (a : Act) (h : s.seq ≠ .idle) : (perform a s).fsc = s.fsc ∧
    (perform a s).bank = { s.bank with
      txreq := (perform a s).bank.txreq, txerr := (perform a s).bank.txerr, abortReq := (perform a s).bank.abortReq
      modeStat := (perform a s).bank.modeStat } := by
  have hi : s.isIdle = false := by simp [State.isIdle, h]
  cases a <;> simp [perform, hi, regWrite]

end Sys2Proof.Machine
end

