-- ==== Sys2Proof/Laws/Encoding.lean ====
section
/-! SUPPORT. Fields of a word that is made of placed operands: what a field reads, and what lies above the last operand. -/

namespace Sys2Proof

theorem field_or (v w : CommandWord) (lo n : Nat) : field (v ||| w) lo n = field v lo n ||| field w lo n := by
  simp [field, BitVec.extractLsb'_or]

/-- A placed operand is read back at its place. -/
theorem field_place_same {n : Nat} (lo : Nat) (v : BitVec n) (h : lo + n ≤ 88) : field (place lo v) lo n = v := by
  apply BitVec.eq_of_getLsbD_eq
  intro i hi
  simp only [field, place, BitVec.getLsbD_extractLsb', BitVec.getLsbD_shiftLeft, BitVec.getLsbD_setWidth]
  simp [hi, show lo + i < 88 by omega, show i < 88 by omega]

/-- A placed operand is not seen in a field that lies below or above it. -/
theorem field_place_disjoint {k : Nat} (at' : Nat) (v : BitVec k) (lo n : Nat) (h : lo + n ≤ at' ∨ at' + k ≤ lo) :
    field (place at' v) lo n = 0#n := by
  apply BitVec.eq_of_getLsbD_eq
  intro i hi
  simp only [field, place, BitVec.getLsbD_extractLsb', BitVec.getLsbD_shiftLeft, BitVec.getLsbD_setWidth]
  rcases h with h | h
  · simp [hi, show lo + i < at' by omega]
  · simp [hi, show k ≤ lo + i - at' by omega]

/-- Nothing of a placed operand stands from bit `top` up if it ends below. -/
theorem place_ushiftRight {n : Nat} (lo : Nat) (v : BitVec n) (top : Nat) (h : lo + n ≤ top) : place lo v >>> top = 0#88 := by
  apply BitVec.eq_of_getLsbD_eq
  intro i hi
  simp only [place, BitVec.getLsbD_ushiftRight, BitVec.getLsbD_shiftLeft, BitVec.getLsbD_setWidth]
  simp [show n ≤ top + i - lo by omega]

theorem or_ushiftRight (v w : CommandWord) (top : Nat) : (v ||| w) >>> top = v >>> top ||| w >>> top := by
  apply BitVec.eq_of_getLsbD_eq
  intro i _
  simp

end Sys2Proof
end

