-- ==== Sys2Proof/Laws/PerInstr.lean ====
section
/-! SUPPORT. The family OpcodeField: the opcode of R61 stands in `W[3:0]` of every encoded instruction (R64). -/

namespace Sys2Proof.Laws.OpcodeField

/-- `W[3:0]` of the instruction's word is its opcode. -/
def Statement (i : Instr) : Prop := field (encode i) 0 4 = i.opcode

theorem hdr2b (nodeID messageType : Byte) : Statement (.hdr2b nodeID messageType) :=
  by simp [Statement, encode, field_or, field_place_same, field_place_disjoint, Instr.opcode]
theorem b2hdr (high low : Byte) : Statement (.b2hdr high low) :=
  by simp [Statement, encode, field_or, field_place_same, field_place_disjoint, Instr.opcode]
theorem penc (a b c d : Byte) : Statement (.penc a b c d) :=
  by simp [Statement, encode, field_or, field_place_same, field_place_disjoint, Instr.opcode]
theorem pdecop (byte : Byte) : Statement (.pdecop byte) :=
  by simp [Statement, encode, field_or, field_place_same, field_place_disjoint, Instr.opcode]
theorem baud (bitrate clock : BitVec 16) : Statement (.baud bitrate clock) :=
  by simp [Statement, encode, field_or, field_place_same, field_place_disjoint, Instr.opcode]
theorem init (r : Routing) : Statement (.init r) :=
  by simp [Statement, encode, field_or, field_place_same, field_place_disjoint, Instr.opcode]
theorem setmode (target : Byte) : Statement (.setmode target) :=
  by simp [Statement, encode, field_or, field_place_same, field_place_disjoint, Instr.opcode]
theorem fstrict (nodeID messageType : Byte) : Statement (.fstrict nodeID messageType) :=
  by simp [Statement, encode, field_or, field_place_same, field_place_disjoint, Instr.opcode]
theorem ffirst (nodeID messageType : Byte) : Statement (.ffirst nodeID messageType) :=
  by simp [Statement, encode, field_or, field_place_same, field_place_disjoint, Instr.opcode]
theorem await : Statement .await := by simp [Statement, encode, field_place_same, Instr.opcode]
theorem send (m : Message) : Statement (.send m) :=
  by simp [Statement, encode, encodeMessage, field_or, field_place_same, field_place_disjoint, Instr.opcode]
theorem sendsync (m : Message) : Statement (.sendsync m) :=
  by simp [Statement, encode, encodeMessage, field_or, field_place_same, field_place_disjoint, Instr.opcode]

end Sys2Proof.Laws.OpcodeField
end

