-- ==== Sys2Proof/Laws/Sequencer.lean ====
section
/-! SUPPORT. Everything a turn of the block, the acceptance of a command and a step can do, said once, so that later proofs cite
these lemmas and look at single micro-steps only. -/

namespace Sys2Proof.Machine

theorem isIdle_iff (s : State) : s.isIdle = true ↔ s.seq = .idle := by simp [State.isIdle]

/-- At IDLE a micro-step does nothing. -/
theorem microStep_idle {s : State} (h : s.seq = .idle) : microStep s = s := by simp [microStep, h]

theorem microSteps_idle (k : Nat) {s : State} (h : s.seq = .idle) : microSteps k s = s := by
  induction k with
  | zero => rfl
  | succ k ih => rw [microSteps, microStep_idle h, ih]

theorem microSteps_add (j k : Nat) (s : State) : microSteps (j + k) s = microSteps k (microSteps j s) := by
  induction j generalizing s with
  | zero => rw [Nat.zero_add]; rfl
  | succ j ih => rw [Nat.succ_add, microSteps, microSteps, ih]

/-- An undisturbed run is some number of micro-steps. -/
theorem runUndisturbed_eq (n : Nat) (s : State) : ∃ k ≤ n, runUndisturbed n s = microSteps k s := by
  induction n generalizing s with
  | zero => exact ⟨0, Nat.le_refl 0, rfl⟩
  | succ n ih =>
    by_cases h : pollFails s = true
    · exact ⟨1, by omega, by simp [runUndisturbed, h, microSteps]⟩
    · obtain ⟨k, hk, e⟩ := ih (microStep s)
      exact ⟨k + 1, by omega, by simp [runUndisturbed, h, microSteps, e]⟩

/-- A turn of the block is some number of micro-steps, after the agenda gave up its `block` entry; the bound is the entry's
number. -/
theorem blockTurn_cases (s : State) :
    (s.agenda = [] ∧ ∃ k ≤ undisturbedBound, blockTurn s = microSteps k s) ∨
    (∃ k rest, s.agenda = .block k :: rest ∧ blockTurn s = microSteps k { s with agenda := rest }) ∨
    (∃ a rest, s.agenda = .agent a :: rest ∧ blockTurn s = s) := by
  cases h : s.agenda with
  | nil =>
    obtain ⟨k, hk, e⟩ := runUndisturbed_eq undisturbedBound s
    exact .inl ⟨rfl, k, hk, by simp [blockTurn, h, e]⟩
  | cons t rest =>
    cases t with
    | agent a => exact .inr (.inr ⟨a, rest, rfl, by simp [blockTurn, h]⟩)
    | block k => exact .inr (.inl ⟨k, rest, rfl, by simp [blockTurn, h]⟩)

/-- A relation that is reflexive and is carried on by a micro-step holds between a state and the state many micro-steps later. -/
theorem microSteps_induct {R : State → State → Prop} (base : ∀ s, R s s)
    (next : ∀ s t, R s t → R s (microStep t)) (k : Nat) (s : State) : R s (microSteps k s) := by
  have go : ∀ (k : Nat) (t : State), R s t → R s (microSteps k t) := by
    intro k
    induction k with
    | zero => exact fun t h => h
    | succ k ih => exact fun t h => ih _ (next s t h)
  exact go k s (base s)

/-- A property that no `block` entry of the agenda decides and every micro-step keeps is kept by the block's turn. -/
theorem blockTurn_induct {P : State → Prop} (agenda : ∀ s rest, P s → P { s with agenda := rest })
    (next : ∀ s, P s → P (microStep s)) (s : State) (h : P s) : P (blockTurn s) := by
  have go : ∀ (k : Nat) (t : State), P t → P (microSteps k t) := by
    intro k
    induction k with
    | zero => exact fun t h => h
    | succ k ih => exact fun t h => ih _ (next t h)
  rcases blockTurn_cases s with ⟨-, k, -, e⟩ | ⟨k, rest, -, e⟩ | ⟨a, rest, -, e⟩
  · rw [e]; exact go k s h
  · rw [e]; exact go k _ (agenda s rest h)
  · rw [e]; exact h

/-- What presenting a stateful command can do: nothing while another is in progress, a refusal with nothing written, or the
acceptance and the block's turn. -/
theorem acceptCommand_cases (first : Seq) (refusal : Option Refusal) (s : State) :
    (s.seq ≠ .idle ∧ acceptCommand first refusal s = .next s) ∨
    (s.seq = .idle ∧ ∃ r, refusal = some r ∧ acceptCommand first refusal s = .refused r) ∨
    (s.seq = .idle ∧ refusal = none ∧ acceptCommand first refusal s = .next (blockTurn (s.goto first))) := by
  by_cases h : s.seq = .idle
  · cases refusal with
    | none => exact .inr (.inr ⟨h, rfl, by simp [acceptCommand, State.isIdle, h]⟩)
    | some r => exact .inr (.inl ⟨h, r, rfl, by simp [acceptCommand, State.isIdle, h]⟩)
  · exact .inl ⟨h, by simp [acceptCommand, State.isIdle, h]⟩

theorem acceptCommand_accepted {first : Seq} {refusal : Option Refusal} {s : State} (h : s.seq = .idle)
    (hr : refusal = none) : acceptCommand first refusal s = .next (blockTurn (s.goto first)) := by
  simp [acceptCommand, State.isIdle, h, hr]

theorem acceptCommand_refused {first : Seq} {refusal : Option Refusal} {s : State} {r : Refusal} (h : s.seq = .idle)
    (hr : refusal = some r) : acceptCommand first refusal s = .refused r := by
  simp [acceptCommand, State.isIdle, h, hr]

/-- At IDLE the block's turn only gives up its entry of the agenda. -/
theorem blockTurn_idle {s : State} (h : s.seq = .idle) : ∃ rest, blockTurn s = { s with agenda := rest } := by
  rcases blockTurn_cases s with ⟨ha, k, -, e⟩ | ⟨k, rest, -, e⟩ | ⟨a, rest, ha, e⟩
  · exact ⟨s.agenda, by rw [e, microSteps_idle k h]⟩
  · exact ⟨rest, e.trans (microSteps_idle k h)⟩
  · exact ⟨s.agenda, e⟩

/-- When the port takes a word: at IDLE any, while a command is in progress a pure operation's only. -/
theorem fetchWord_eq_some {s s' : State} {d : Except Invalid Instr} :
    fetchWord s = some (d, s') ↔
      ∃ w rest, s.port = w :: rest ∧ d = decode w ∧ s' = { s with port := rest } ∧
        (s.seq = .idle ∨ ∃ i, decode w = .ok i ∧ i.isPure = true) := by
  cases hp : s.port with
  | nil => simp [fetchWord, hp]
  | cons w rest =>
    cases hd : decode w with
    | ok i =>
      by_cases hi : s.seq = .idle <;> simp [fetchWord, hp, hd, portTakes, State.isIdle, hi]
      all_goals grind
    | error e =>
      by_cases hi : s.seq = .idle <;> simp [fetchWord, hp, hd, portTakes, State.isIdle, hi]
      all_goals grind

/-- When the port takes nothing: nothing is presented, or a command is in progress and the word is no pure operation's. -/
theorem fetchWord_eq_none {s : State} :
    fetchWord s = none ↔
      s.port = [] ∨ (s.seq ≠ .idle ∧ ∀ w rest i, s.port = w :: rest → decode w = .ok i → i.isPure = false) := by
  cases hp : s.port with
  | nil => simp [fetchWord, hp]
  | cons w rest =>
    cases hd : decode w with
    | ok i =>
      by_cases hi : s.seq = .idle <;> simp [fetchWord, hp, hd, portTakes, State.isIdle, hi]
      all_goals grind
    | error e =>
      by_cases hi : s.seq = .idle <;> simp [fetchWord, hp, hd, portTakes, State.isIdle, hi]
      all_goals grind

/-- Everything a step that answers a next state can do: another agent's step; a command taken from the port, in a busy block a pure
one only; or the block's turn, with nothing the port takes. -/
theorem step_cases {s t : State} (h : step s = .next t) :
    (∃ a rest, s.agenda = .agent a :: rest ∧ t = perform a { s with agenda := rest }) ∨
    ((∀ a rest, s.agenda ≠ .agent a :: rest) ∧
      ((fetchWord s = none ∧ t = blockTurn s) ∨
       (∃ w rest i, s.port = w :: rest ∧ decode w = .ok i ∧ (s.seq = .idle ∨ i.isPure = true) ∧
          exec i { s with port := rest } = .next t))) := by
  unfold step at h
  split at h
  · rename_i a rest e
    exact .inl ⟨a, rest, e, by simpa using h.symm⟩
  · rename_i hno
    refine .inr ⟨fun a rest e => hno a rest e, ?_⟩
    split at h
    · rename_i i s' e
      obtain ⟨w, rest, hp, hd, rfl, ht⟩ := fetchWord_eq_some.1 e
      exact .inr ⟨w, rest, i, hp, hd.symm, by grind, h⟩
    · cases h
    · rename_i e
      exact .inl ⟨e, by simpa using h.symm⟩

/-- A pure operation's only effect is its result. -/
theorem exec_pure {i : Instr} (h : i.isPure = true) (s : State) :
    ∃ r, pureResult i = some r ∧ exec i s = .next { s with resultPort := some r } := by
  cases i <;> first | exact ⟨_, rfl, rfl⟩ | cases h

end Sys2Proof.Machine
end

