-- ==== Sys2Proof/Safety.lean ====
section
/-! DEFINITION. The terms claims are stated in: the launch premises of R203 and R192, the run of several steps, and the invariant
every step keeps. -/

namespace Sys2Proof

open Sys2Proof.Machine

/-! ### Launch premises (R203) and the peripheral's premises (R192) -/

/-- `SeqIdle`: the sequencer is IDLE. -/
abbrev SeqIdle (s : State) : Prop := s.seq = .idle

/-- `InitDone`: INIT has run since power-on. -/
abbrev InitDone (s : State) : Prop := s.initDone = true

/-- `TxIdle`: `TXREQ` = 0. -/
abbrev TxIdle (s : State) : Prop := s.bank.txreq = 0#1

/-- `NoAbortPending`: `ABORT_REQ` = 0. -/
abbrev NoAbortPending (s : State) : Prop := s.bank.abortReq = 0#1

/-- `ModeIs(m)`: `MODE_STAT` = m. -/
abbrev ModeIs (m : BitVec 3) (s : State) : Prop := s.bank.modeStat = m

/-- No other agent has a turn left, so the block runs undisturbed. -/
abbrev Undisturbed (s : State) : Prop := s.agenda = []

/-- No word waits on the port that the port would take in a busy block: none of a pure operation at its head. -/
abbrev PortWaits (s : State) : Prop := ∀ w rest i, s.port = w :: rest → decode w = .ok i → i.isPure = false

/-- This step is the turn of another agent, and `a` is what it does. -/
abbrev AgentTurn (a : Act) (s : State) : Prop := ∃ rest, s.agenda = .agent a :: rest

/-- This step is the main line's direct write of the register or field `r`, made outside any command (R193, log entry 20). -/
abbrev HostWrites (r : Reg) (s : State) : Prop := s.seq = .idle ∧ ∃ v, AgentTurn (.hostWritesRegister r v) s

/-- This step is the main line's direct write of some register or field. -/
abbrev HostWritesDirectly (s : State) : Prop := ∃ r, HostWrites r s

/-- One move of a run in which the host also writes directly between two steps: a step of the machine, or, outside any command, a direct
write of any item with any value (R193; log entries 20 and 21). -/
def Move (s t : State) : Prop := step s = .next t ∨ (SeqIdle s ∧ ∃ w, writeDirectly w s = t)

/-- A run of such moves leads from one state to the other. -/
inductive Moves : State → State → Prop where
  | refl (s : State) : Moves s s
  | tail {s t u : State} (before : Moves s t) (last : Move t u) : Moves s u

/-! ### Runs -/

/-- The state after `k` steps is `t`: no step of the run was refused. -/
abbrev RunsTo (k : Nat) (s t : State) : Prop := Host.Core.run core k s = .next t

/-- A safe run (R190): `k` steps, none of them refused. -/
abbrev SafeRun (k : Nat) (s : State) : Prop := ∃ t, RunsTo k s t

/-! ### Premises about the peripheral (R192, R203) -/

/-- `PeriphEventuallyClearsTxreq` (R192): whenever `TXREQ` = 1 in the run from `s`, the peripheral eventually writes `TXREQ` <- 0. -/
def PeriphEventuallyClearsTxreq (s : State) : Prop :=
  ∀ k t, RunsTo k s t → t.bank.txreq = 1#1 →
    ∃ j u rest, RunsTo j t u ∧ u.agenda = .agent .periphClearsTxreq :: rest

/-- The next step is the block's turn: no other agent's comes first and the port takes no word. -/
abbrev BlockTurnNext (s : State) : Prop := (∀ a rest, s.agenda ≠ .agent a :: rest) ∧ fetchWord s = none

/-- The most micro-steps the block's next turn takes. -/
def turnLength (s : State) : Nat :=
  match s.agenda with
  | [] => undisturbedBound
  | .block k :: _ => k
  | .agent _ :: _ => 0

/-- The next step is the block's turn, and in it SETMODE(target) reads `MODE_STAT`, at S0 or S3, and the read returns the target. -/
def ReadReturnsTarget (target : Byte) (s : State) : Prop :=
  BlockTurnNext s ∧ ∃ j < turnLength s,
    ((microSteps j s).seq = .setmode target .s0 ∨ (microSteps j s).seq = .setmode target .s3) ∧
    ModeIs (trunc3 target) (microSteps j s)

/-- `PeriphEventuallyReports(t)` (R192) for the SETMODE(target) in progress, t = `trunc_3(target)`: after `MODE_REQ` has been written with
t, eventually a read of `MODE_STAT` returns t at the moment the block reads it. -/
def PeriphEventuallyReports (target : Byte) (s : State) : Prop :=
  ∀ k u l, RunsTo k s u → u.seq = .setmode target l → u.bank.modeReq = trunc3 target →
    ∃ j v, RunsTo j u v ∧ ReadReturnsTarget target v

/-- Enough for one wait, as a fact about the agenda: the peripheral still has a step that clears `TXREQ`. -/
abbrev PeriphStillClears (s : State) : Prop := Turn.agent .periphClearsTxreq ∈ s.agenda

/-- `MODE_STAT` after every turn of the agenda, when it is `m` now and the peripheral alone writes it (R28; the host's direct write is
made outside any command). -/
def modeStatAfter : List Turn → BitVec 3 → BitVec 3
  | [], m => m
  | .agent (.periphReportsMode m') :: rest, _ => modeStatAfter rest m'
  | _ :: rest, m => modeStatAfter rest m

/-- Enough for SETMODE, as a fact about the agenda: the mode the peripheral reports last, and from then on, is `t`. -/
abbrev PeriphSettlesOn (t : BitVec 3) (s : State) : Prop := modeStatAfter s.agenda s.bank.modeStat = t

/-! ### Commands -/

/-- Commands executed one after another by `exec`, each from the state the one before it left. -/
def execAll : List Instr → State → Host.Outcome State Fault Refusal
  | [], s => .next s
  | i :: is, s =>
    match exec i s with
    | .next s' => execAll is s'
    | .fault f => .fault f
    | .refused r => .refused r

/-- The command SEQ holds (R11). -/
def commandOf : Seq → Option Instr
  | .idle => none
  | .baud bitrate clock _ => some (.baud bitrate clock)
  | .init r _ => some (.init r)
  | .setmode target _ => some (.setmode target)
  | .fstrict nodeID messageType _ => some (.fstrict nodeID messageType)
  | .ffirst nodeID messageType _ => some (.ffirst nodeID messageType)
  | .await _ => some .await
  | .send m _ => some (.send m)
  | .sendsync m _ => some (.sendsync m)

/-- `t` is what one execution of `i` leaves of `s`, or, with `i` in progress, what the block's next turn leaves: every piece of a
run that belongs to `i`. -/
abbrev Works (i : Instr) (s t : State) : Prop :=
  exec i s = .next t ∨ (commandOf s.seq = some i ∧ blockTurn s = t)

/-- The step from `s` is the block's work at `i`: no other agent's turn comes first, and `i` is the command in progress or, at IDLE, the
one the port takes. -/
abbrev WorksAt (i : Instr) (s : State) : Prop :=
  (∀ a, ¬ AgentTurn a s) ∧
    (commandOf s.seq = some i ∨ (s.seq = .idle ∧ ∃ w rest, s.port = w :: rest ∧ decode w = .ok i))

/-! ### Owners (10_state.md: "Owner" says which agent may write the field) -/

/-- The registers and fields an operation writes: its rule's "State written". -/
def blockWrites (i : Instr) (r : Reg) : Bool :=
  match i with
  | .hdr2b _ _ => false
  | .b2hdr _ _ => false
  | .penc _ _ _ _ => false
  | .pdecop _ => false
  | .baud _ _ => r == .brp || r == .timingA || r == .timingB
  | .init _ => r == .driveEn
  | .setmode _ => r == .modeReq
  | .fstrict _ _ => filterRegister r
  | .ffirst _ _ => filterRegister r
  | .await => r == .abortReq
  | .send _ => transmitRegister r
  | .sendsync _ => transmitRegister r
where
  /-- R135. -/
  filterRegister : Reg → Bool
    | .filtH _ => true
    | .filtL _ => true
    | .filtEn _ => true
    | .maskH => true
    | .maskL => true
    | .rxie0 => true
    | _ => false
  /-- R158. -/
  transmitRegister : Reg → Bool
    | .txidH => true
    | .txidL => true
    | .txdlc => true
    | .txd _ => true
    | .txreq => true
    | .abortReq => true
    | _ => false

/-- The field a step of the peripheral writes (R48 to R51). -/
def periphWrites (a : Act) (r : Reg) : Bool :=
  match a with
  | .periphClearsTxreq => r == .txreq
  | .periphSetsTxerr _ => r == .txerr
  | .periphClearsAbort => r == .abortReq
  | .periphReportsMode _ => r == .modeStat
  | _ => false

/-- A filter call (R141): FFIRST when the flag is set, FSTRICT otherwise, with its nodeID and messageType. -/
def filterCall (c : Bool × Byte × Byte) : Instr :=
  if c.1 then .ffirst c.2.1 c.2.2 else .fstrict c.2.1 c.2.2

/-! ### Closed forms -/

/-- The high identifier byte, `(t << 5) | (nodeID >> 3)` with t = `trunc_3(messageType)` (R90), as a sum. -/
def idHigh (nodeID messageType : Byte) : Byte := BitVec.ofNat 8 (messageType.toNat % 8 * 32 + nodeID.toNat / 8)

/-- The low identifier byte, `(nodeID & 0x07) << 5` (R90), as a product. -/
def idLow (nodeID : Byte) : Byte := BitVec.ofNat 8 (nodeID.toNat % 8 * 32)

/-- The quotient of R110. -/
def baudQuotient (bitrate clock : BitVec 16) : Nat := 1000 * clock.toNat / (32 * bitrate.toNat)

/-- The header of an identifier whose bits 10 to 8 are a message type and bits 7 to 0 a node (R70), as a number. -/
def identifier (high low : Byte) : Nat := (high.toNat * 256 + low.toNat) / 32

/-! ### The invariant -/

/-- FSTRICT's labels: the block-owned state is written, the counter can still be incremented until `S4` has done it, and the value
held from `S0` is still the counter's (R137, R146, R202). -/
def filterLabelOk (s : State) : FilterLabel → Bool
  | .s0 => s.initDone && s.fsc != 255#8
  | .s1 c => s.initDone && s.fsc == c && c != 255#8
  | .s2 c => s.initDone && s.fsc == c && c != 255#8
  | .s3 c => s.initDone && s.fsc == c && c != 255#8
  | .s4 c => s.initDone && s.fsc == c && c != 255#8
  | .s5 => s.initDone && s.fsc != 0#8
  | .s6 => s.initDone && s.fsc != 0#8
  | .s7 => s.initDone && s.fsc != 0#8

/-- SEND's labels: the length is legal (R159), a data step writes a register below it (R165), and from `S1` to `S5` `TXREQ` is 0
(R161). -/
def sendLabelOk (s : State) (m : Message) : SendLabel → Bool
  | .s0 => decide (m.dataLength.toNat ≤ 8)
  | .wait _ => decide (m.dataLength.toNat ≤ 8)
  | .s1 => decide (m.dataLength.toNat ≤ 8) && s.bank.txreq == 0#1
  | .s2 => decide (m.dataLength.toNat ≤ 8) && s.bank.txreq == 0#1
  | .s3 => decide (m.dataLength.toNat ≤ 8) && s.bank.txreq == 0#1
  | .s4 i => decide (m.dataLength.toNat ≤ 8) && s.bank.txreq == 0#1 && decide (i.val < m.dataLength.toNat)
  | .s5 => decide (m.dataLength.toNat ≤ 8) && s.bank.txreq == 0#1

/-- The command in progress is one that was not refused, at a label it can be at. -/
def seqOk (s : State) : Bool :=
  match s.seq with
  | .idle => true
  | .baud bitrate _ _ => bitrate != 0#16
  | .init _ _ => true
  | .setmode target _ => legalTarget target
  | .fstrict _ _ l => filterLabelOk s l
  | .ffirst _ _ (.strict l) => filterLabelOk s l
  | .ffirst _ _ .s8 => s.initDone && s.fsc != 0#8
  | .ffirst _ _ .s9 => s.initDone && s.fsc != 0#8
  | .await _ => true
  | .send m l => sendLabelOk s m l
  | .sendsync m (.send l) => sendLabelOk s m l
  | .sendsync m (.wait _) => decide (m.dataLength.toNat ≤ 8)

/-- `low[4:0]` = 0: no identifier the block writes selects the extended format (R71, R17, R23). -/
def standardFormat (low : Byte) : Bool := low &&& 0x1F#8 == 0#8

/-- The register bank holds only values the block or the peripheral puts there: lengths 0 to 8 (R18), identifiers in standard
format (R17, R23), one of the four mode codes requested (R27). -/
def bankOk (b : Bank) : Bool :=
  decide (b.txdlc.toNat ≤ 8) && standardFormat b.txidL && standardFormat b.filt0.idL && standardFormat b.filt1.idL
    && (Mode.ofCode? b.modeReq).isSome

/-- The invariant of the sequencer and the block-owned state, with a timestamp of TS_WIDTH bits (R15). -/
structure Inv (s : State) : Prop where
  seq : seqOk s = true
  timestamp : s.timestamp < 2 ^ s.params.timestampWidth

/-- The invariant of the register bank; a direct write of the host's main line may break it (R193). -/
abbrev BankInv (s : State) : Prop := bankOk s.bank = true

/-- FSTRICT or FFIRST is past its last write of a filter bank (`S4` on, R135, R139). -/
def pastBankWrites : Seq → Bool
  | .fstrict _ _ (.s4 _) => true
  | .fstrict _ _ .s5 => true
  | .fstrict _ _ .s6 => true
  | .fstrict _ _ .s7 => true
  | .ffirst _ _ (.strict (.s4 _)) => true
  | .ffirst _ _ (.strict .s5) => true
  | .ffirst _ _ (.strict .s6) => true
  | .ffirst _ _ (.strict .s7) => true
  | .ffirst _ _ .s8 => true
  | .ffirst _ _ .s9 => true
  | _ => false

end Sys2Proof
end

