-- ==== Sys2Proof/Certificates/Slice0/Obligations.lean ====
section
/-! DEFINITION. The statements for the provers, each from the numbered rules of spec/ its docstring names. -/

open Sys2Proof Sys2Proof.Machine

/-! ## Encoding -/

/-- R64: no bit of an operand is lost on the way into the word and back, for every instruction and operand value. -/
def Obligations.DecodeOfEncodeIsTheInstruction : Prop :=
  ∀ i : Instr, decode (encode i) = .ok i

/-- R65: a word that decodes to a command is that command's word, so no two words are one command. -/
def Obligations.EncodeOfADecodedWordIsTheWord : Prop :=
  ∀ (w : CommandWord) (i : Instr), decode w = .ok i → encode i = w

/-- R65: decoding is total, and a word is INVALID exactly when its opcode is 0xC to 0xF or a reserved bit of its format (R64) is
1: format H and Y from bit 20, P and R from 36, B and M from 12, I from 5, N from 4; T reserves none. -/
def Obligations.WordIsInvalidExactlyWhenReserved : Prop :=
  ∀ w : CommandWord,
    let op := w.toNat % 16
    let reservedFrom (n : Nat) : Prop := ∃ j, n ≤ j ∧ j < 88 ∧ w.getLsbD j = true
    ((∃ i, decode w = .ok i) ∨ ∃ e, decode w = .error e) ∧
    ((∃ e, decode w = .error e) ↔
      12 ≤ op ∨
      ((op = 0 ∨ op = 1 ∨ op = 7 ∨ op = 8) ∧ reservedFrom 20) ∨
      ((op = 2 ∨ op = 4) ∧ reservedFrom 36) ∨
      ((op = 3 ∨ op = 6) ∧ reservedFrom 12) ∨
      (op = 5 ∧ reservedFrom 5) ∨
      (op = 9 ∧ reservedFrom 4))

/-- spec/opcode_table.json (30_encoding.md, preamble): the decoder accepts exactly the words that `(W & mask) == match` of one row
accepts, and its opcode is then that row's. -/
def Obligations.DecoderAgreesWithTheOpcodeTable : Prop :=
  ∀ w : CommandWord, ∀ op : Nat,
    (∃ i, decode w = .ok i ∧ i.opcode.toNat = op) ↔
      ∃ row, opcodeTable[op]? = some row ∧ w &&& row.1 = row.2

/-- R64 and the words of 95_test_vectors.md: a few words written out decode to the command they stand for. -/
def Obligations.WrittenWordsDecode : Prop :=
  decode 0x1120#88 = .ok (.hdr2b 0x12#8 1#8) ∧
  decode 0xA0541#88 = .ok (.b2hdr 0x54#8 0xA0#8) ∧
  decode 0x50200012#88 = .ok (.penc 1#8 0#8 2#8 5#8) ∧
  decode 0x28007D4#88 = .ok (.baud 125#16 40#16) ∧
  decode 0x15#88 = .ok (.init .alternate) ∧
  decode 0x2808#88 = .ok (.ffirst 0x80#8 2#8) ∧
  decode 0xCCBBAA30012A#88 =
    .ok (.send ⟨0x12#8, 0#8, 3#4, #v[0xAA#8, 0xBB#8, 0xCC#8, 0#8, 0#8, 0#8, 0#8, 0#8]⟩) ∧
  decode 0x19#88 = .error .reservedBit ∧
  decode 0xC#88 = .error .reservedOpcode

/-- R60, R11: when no other agent's turn comes first and the word on the port decodes to `i`, a step takes the word off the port and is
`exec i`: at IDLE for every `i`, and while a stateful command is in progress for a pure `i`, which is not serialised. -/
def Obligations.StepExecutesTheDecodedCommand : Prop :=
  ∀ (s : State) (w : CommandWord) (rest : List CommandWord) (i : Instr),
    SeqIdle s ∨ i.isPure = true → (∀ a later, s.agenda ≠ .agent a :: later) → s.port = w :: rest → decode w = .ok i →
    step s = exec i { s with port := rest }

/-- R66, R190: an INVALID word presented at IDLE is refused by name; there is no next state, so nothing is written. -/
def Obligations.InvalidWordIsRefused : Prop :=
  ∀ (s : State) (w : CommandWord) (rest : List CommandWord) (e : Invalid),
    SeqIdle s → (∀ a later, s.agenda ≠ .agent a :: later) → s.port = w :: rest → decode w = .error e →
    step s = .refused .invalidCommandWord

/-! ## The two codecs -/

/-- R90: HDR2B answers in every state, changes the result port alone (a field of the model, log entry 3), and returns the two
identifier bytes; its word is opcode 0x0, format H. -/
def Obligations.Hdr2bReturnsTheIdentifierBytes : Prop :=
  ∀ (nodeID messageType : Byte) (s : State), ∃ high low : Byte,
    decode (BitVec.ofNat 88 (0x0 + nodeID.toNat * 2 ^ 4 + messageType.toNat * 2 ^ 12)) = .ok (.hdr2b nodeID messageType) ∧
    exec (.hdr2b nodeID messageType) s = .next { s with resultPort := some (.identifierBytes high low) } ∧
    high.toNat = messageType.toNat % 8 * 32 + nodeID.toNat / 8 ∧
    low.toNat = nodeID.toNat % 8 * 32 ∧
    identifier high low = messageType.toNat % 8 * 256 + nodeID.toNat

/-- R91: B2HDR answers in every state, changes the result port alone, and returns the raw message type and the node of the
identifier `(high << 8 | low) >> 5`; its word is opcode 0x1, format Y. -/
def Obligations.B2hdrReturnsTheHeader : Prop :=
  ∀ (high low : Byte) (s : State), ∃ (messageType : BitVec 3) (nodeID : Byte),
    decode (BitVec.ofNat 88 (0x1 + high.toNat * 2 ^ 4 + low.toNat * 2 ^ 12)) = .ok (.b2hdr high low) ∧
    exec (.b2hdr high low) s = .next { s with resultPort := some (.header messageType nodeID) } ∧
    messageType.toNat = identifier high low / 256 ∧
    nodeID.toNat = identifier high low % 256

/-- R92 and R94: HDR2B then B2HDR gives back the node and the low three bits of the message type; B2HDR then HDR2B gives back the
high byte and the low byte with its low five bits cleared, so exactly the pair when `low[4:0]` = 0. -/
def Obligations.HeaderAndBytesRoundTrip : Prop :=
  (∀ (nodeID messageType high low : Byte) (s t u : State),
    exec (.hdr2b nodeID messageType) s = .next t → t.resultPort = some (.identifierBytes high low) →
    exec (.b2hdr high low) t = .next u →
    u.resultPort = some (.header (BitVec.ofNat 3 messageType.toNat) nodeID)) ∧
  (∀ (high low nodeID : Byte) (messageType : BitVec 3) (s t u : State),
    exec (.b2hdr high low) s = .next t → t.resultPort = some (.header messageType nodeID) →
    exec (.hdr2b nodeID (messageType.setWidth 8)) t = .next u →
    u.resultPort = some (.identifierBytes high (low &&& 0xE0#8)) ∧
    ((u.resultPort = some (.identifierBytes high low)) ↔ low &&& 0x1F#8 = 0#8))

/-- R93: HDR2B maps the 8-bit nodes and the message types 0 to 7 one to one onto the byte pairs with `low[4:0]` = 0. -/
def Obligations.HeadersMapOneToOneOntoStandardPairs : Prop :=
  ∀ (high low : Byte) (s : State), low &&& 0x1F#8 = 0#8 →
    ∃! h : Byte × BitVec 3,
      exec (.hdr2b h.1 (h.2.setWidth 8)) s = .next { s with resultPort := some (.identifierBytes high low) }

/-- R100: PENC answers in every state, changes the result port alone, and returns the four fields, each cut to its width, at bits
7:6, 5, 4:3 and 2:0; its word is opcode 0x2, format P. -/
def Obligations.PencPacksTheFourFields : Prop :=
  ∀ (operation errorFlag firmwareVersion switchCounter : Byte) (s : State), ∃ byte : Byte,
    decode (BitVec.ofNat 88 (0x2 + operation.toNat * 2 ^ 4 + errorFlag.toNat * 2 ^ 12 + firmwareVersion.toNat * 2 ^ 20
        + switchCounter.toNat * 2 ^ 28)) = .ok (.penc operation errorFlag firmwareVersion switchCounter) ∧
    exec (.penc operation errorFlag firmwareVersion switchCounter) s
      = .next { s with resultPort := some (.payloadByte byte) } ∧
    byte.toNat = operation.toNat % 4 * 64 + errorFlag.toNat % 2 * 32 + firmwareVersion.toNat % 4 * 8 + switchCounter.toNat % 8

/-- R101: PDECOP answers in every state, changes the result port alone, and returns the top two bits; its word is opcode 0x3,
format B. -/
def Obligations.PdecopReturnsTheTopTwoBits : Prop :=
  ∀ (byte : Byte) (s : State), ∃ op : BitVec 2,
    decode (BitVec.ofNat 88 (0x3 + byte.toNat * 2 ^ 4)) = .ok (.pdecop byte) ∧
    exec (.pdecop byte) s = .next { s with resultPort := some (.operation op) } ∧
    op.toNat = byte.toNat / 64

/-- R102 and R104: PENC then PDECOP gives the low two bits of the operation operand, and every byte is PENC of exactly one choice of
in-range operands. -/
def Obligations.PayloadRoundTripAndBijection : Prop :=
  (∀ (op e fw sc byte : Byte) (s t u : State),
    exec (.penc op e fw sc) s = .next t → t.resultPort = some (.payloadByte byte) → exec (.pdecop byte) t = .next u →
    u.resultPort = some (.operation (BitVec.ofNat 2 op.toNat))) ∧
  (∀ (byte : Byte) (s : State), ∃! f : BitVec 2 × BitVec 1 × BitVec 2 × BitVec 3,
    exec (.penc (f.1.setWidth 8) (f.2.1.setWidth 8) (f.2.2.1.setWidth 8) (f.2.2.2.setWidth 8)) s
      = .next { s with resultPort := some (.payloadByte byte) })

/-- R60 (the sentence on pure operations; derived, since R60 says more): a pure operation returns the same result in any two states,
whatever SEQ is, and in each changes the result port alone; a host that evaluates it, main line or ISR, between two micro-steps gets
the same result. -/
def Obligations.PureOperationsReadNoState : Prop :=
  ∀ i : Instr, i.isPure = true → ∃ r : Result, ∀ s : State,
    exec i s = .next { s with resultPort := some r } ∧
    perform (.hostEvaluates i) s = { s with resultPort := some r }

/-! ## The Baud Rate Calculator -/

/-- R112, R113, R114: from IDLE, with a bitrate that is not 0, BAUD writes `BRP`, `TIMING_A`, `TIMING_B` in this order and nothing else.
Undisturbed it ends at IDLE with all three written; with a turn of `k` micro-steps the first `k` writes are done. `BRP` is
`q - 1` modulo 64 (R110, R111), stated as `q + 63` modulo 64. Its word is opcode 0x4, format R. -/
def Obligations.BaudWritesTheThreeTimingRegisters : Prop :=
  ∀ (bitrate clock : BitVec 16) (s : State), SeqIdle s → bitrate ≠ 0#16 →
    let brp := BitVec.ofNat 6 (baudQuotient bitrate clock + 63)
    decode (BitVec.ofNat 88 (0x4 + bitrate.toNat * 2 ^ 4 + clock.toNat * 2 ^ 20)) = .ok (.baud bitrate clock) ∧
    (Undisturbed s → exec (.baud bitrate clock) s = .next { s with
      bank := { s.bank with brp := brp, timingA := s.params.timingA, timingB := s.params.timingB } }) ∧
    (∀ k rest, s.agenda = .block k :: rest → ∃ t, exec (.baud bitrate clock) s = .next t ∧
      t = { s with
        agenda := rest
        seq := t.seq
        bank := { s.bank with
          brp := if 1 ≤ k then brp else s.bank.brp
          timingA := if 2 ≤ k then s.params.timingA else s.bank.timingA
          timingB := if 3 ≤ k then s.params.timingB else s.bank.timingB } } ∧
      (t.seq = .idle ↔ 3 ≤ k))

/-- R111: the prescaler is `q - 1` when q is 1 to 64, `(q - 1) mod 64` when q is above 64, and 63 when q is 0; no case is refused. -/
def Obligations.PrescalerWrapsModulo64 : Prop :=
  ∀ (bitrate clock : BitVec 16) (s : State), SeqIdle s → Undisturbed s → bitrate ≠ 0#16 →
    ∃ t, exec (.baud bitrate clock) s = .next t ∧
      (1 ≤ baudQuotient bitrate clock → baudQuotient bitrate clock ≤ 64 →
        t.bank.brp.toNat = baudQuotient bitrate clock - 1) ∧
      (64 < baudQuotient bitrate clock → t.bank.brp.toNat = (baudQuotient bitrate clock - 1) % 64) ∧
      (baudQuotient bitrate clock = 0 → t.bank.brp.toNat = 63)

/-- R116: BAUD with bitrate 0 is refused by name, and with any other bitrate, clock 0 included, it is not; clock 0 gives 63. -/
def Obligations.BaudIsRefusedExactlyAtBitrateZero : Prop :=
  ∀ (bitrate clock : BitVec 16) (s : State), SeqIdle s →
    (bitrate = 0#16 → exec (.baud bitrate clock) s = .refused .baudBitrateZero) ∧
    (bitrate ≠ 0#16 → ∃ t, exec (.baud bitrate clock) s = .next t ∧
      (clock = 0#16 → Undisturbed s → t.bank.brp = 63#6))

/-! ## INIT -/

/-- R120: from IDLE INIT writes, in this order, the transmit pin's direction, the receive pin's, `DRIVE_EN`, `TS.code`, `FSC`, and nothing
else (with the last of them the model records that INIT has run). Undisturbed it ends at IDLE with all five done; with a turn of
`k` micro-steps the first `k` are. Its word is opcode 0x5, format I. -/
def Obligations.InitTakesItsFiveSteps : Prop :=
  ∀ (r : Routing) (s : State), SeqIdle s →
    decode (BitVec.ofNat 88 (0x5 + r.code.toNat * 2 ^ 4)) = .ok (.init r) ∧
    (Undisturbed s → exec (.init r) s = .next { s with
      bank := { setPins s.bank r ⟨.output, .input⟩ with driveEn := 1#1 }
      tsCode := .nothingSent, fsc := 0#8, initDone := true }) ∧
    (∀ k rest, s.agenda = .block k :: rest → ∃ t, exec (.init r) s = .next t ∧
      t = { s with
        agenda := rest
        seq := t.seq
        bank := { setPins s.bank r ⟨if 1 ≤ k then .output else (pins s.bank r).tx, if 2 ≤ k then .input else (pins s.bank r).rx⟩ with
          driveEn := if 3 ≤ k then 1#1 else s.bank.driveEn }
        tsCode := if 4 ≤ k then .nothingSent else s.tsCode
        fsc := if 5 ≤ k then 0#8 else s.fsc
        initDone := if 5 ≤ k then true else s.initDone } ∧
      (t.seq = .idle ↔ 5 ≤ k))

/-- R122: INIT has a meaning whenever SEQ is IDLE, and two of them with one routing leave the state of one. -/
def Obligations.InitIsIdempotent : Prop :=
  ∀ (r : Routing) (s : State), SeqIdle s → Undisturbed s →
    ∃ t, exec (.init r) s = .next t ∧ exec (.init r) t = .next t

/-- R123 (the frame of INIT): whatever the turns of the agenda, INIT writes only the pins of its routing, `DRIVE_EN`, `TS.code` and `FSC`
(and the model's record that it ran); so the filter banks, the mask, `RXIE0`, `MODE_REQ`, the timing registers, `TXREQ`, `ABORT_REQ`, the
transmit buffer, the other routing's pins and `TS.timestamp` stay. -/
def Obligations.InitWritesNothingElse : Prop :=
  ∀ (r : Routing) (s t : State), Works (.init r) s t →
    t = { s with seq := t.seq, agenda := t.agenda, bank := t.bank, tsCode := t.tsCode, fsc := t.fsc, initDone := t.initDone } ∧
    t.bank = { setPins s.bank r (pins t.bank r) with driveEn := t.bank.driveEn }

/-! ## SETMODE -/

/-- R125: when the first read of `MODE_STAT` returns the target, SETMODE is complete with no write at all: the state after it is the
state before it. -/
def Obligations.SetmodeWritesNothingInTheTargetMode : Prop :=
  ∀ (target : Byte) (s : State), SeqIdle s → Undisturbed s → legalTarget target = true → ModeIs (trunc3 target) s →
    exec (.setmode target) s = .next s

/-- R124, R126: in another mode SETMODE asserts the request `trunc_3(target)` and is not complete; when the peripheral then reports the
target it finishes, and when the peripheral reports anything else it asserts the request again. (No pure operation is presented meanwhile;
BusyBlockAcceptsNoStatefulCommand says what one does.) Its word is opcode 0x6, format M. -/
def Obligations.SetmodeRequestsUntilTheTargetIsReported : Prop :=
  ∀ (target : Byte) (m : BitVec 3) (s : State),
    SeqIdle s → legalTarget target = true → ¬ ModeIs (trunc3 target) s → PortWaits s →
    s.agenda = [.block 3, .agent (.periphReportsMode m)] →
    decode (BitVec.ofNat 88 (0x6 + target.toNat * 2 ^ 4)) = .ok (.setmode target) ∧
    ∃ t, exec (.setmode target) s = .next t ∧
      t = { s with
        seq := .setmode target .s3
        agenda := [.agent (.periphReportsMode m)]
        bank := { s.bank with modeReq := trunc3 target } } ∧
      (m = trunc3 target → RunsTo 2 t { s with
        agenda := [], bank := { s.bank with modeReq := trunc3 target, modeStat := m } }) ∧
      (m ≠ trunc3 target → RunsTo 2 t { s with
        seq := .setmode target .s1
        agenda := []
        bank := { s.bank with modeReq := trunc3 target, modeStat := m } })

/-- R127: a micro-step ends SETMODE exactly when it is a read, at S0 or S3, that returns the target; there is no other way out. -/
def Obligations.SetmodeFinishesExactlyWhenAReadReturnsTheTarget : Prop :=
  ∀ (target : Byte) (l : ModeLabel) (s : State), s.seq = .setmode target l →
    ((microStep s).seq = .idle ↔ (l = .s0 ∨ l = .s3) ∧ ModeIs (trunc3 target) s)

/-- R129: a target whose low three bits are 0b011, 0b101, 0b110 or 0b111 is refused by name, and with the other four the command is
accepted. -/
def Obligations.SetmodeIsRefusedExactlyAtReservedTargets : Prop :=
  ∀ (target : Byte) (s : State), SeqIdle s →
    (target.toNat % 8 = 3 ∨ target.toNat % 8 = 5 ∨ target.toNat % 8 = 6 ∨ target.toNat % 8 = 7 →
      exec (.setmode target) s = .refused .setmodeReservedTarget) ∧
    (target.toNat % 8 = 0 ∨ target.toNat % 8 = 1 ∨ target.toNat % 8 = 2 ∨ target.toNat % 8 = 4 →
      ∃ t, exec (.setmode target) s = .next t)

/-- R127, R192 (derived): the infinite run is there. If the agenda leaves `MODE_STAT` other than the target and the command is at S1 with
no turn of another agent left, then however many steps run, each answers a next state and SETMODE is still in progress. -/
def Obligations.SetmodeNeverFinishesWithoutAReport : Prop :=
  ∀ (target : Byte) (s : State) (k : Nat), s.seq = .setmode target .s1 → Undisturbed s → ¬ ModeIs (trunc3 target) s →
    ∃ t, RunsTo k s t ∧ ∃ l, t.seq = .setmode target l

/-- R192 (derived): under `PeriphEventuallyReports`, R192's premise, a SETMODE in progress finishes; and under the premise that the mode the
peripheral reports last on the agenda is the target it does so within as many steps as the agenda has turns and the port words, and
one more. -/
def Obligations.SetmodeFinishesIfThePeripheralReports : Prop :=
  ∀ (target : Byte) (l : ModeLabel) (s : State), s.seq = .setmode target l →
    (PeriphEventuallyReports target s → ∃ k t, RunsTo k s t ∧ t.seq = .idle) ∧
    (PeriphSettlesOn (trunc3 target) s →
      ∃ k t, k ≤ s.agenda.length + s.port.length + 1 ∧ RunsTo k s t ∧ t.seq = .idle)

/-- R127 (its first sentence; derived, since R127 says more): a SETMODE in progress terminates if and only if, somewhere in its run, a read at
S0 or S3 returns the target. -/
def Obligations.SetmodeTerminatesExactlyIfAReadReturnsTheTarget : Prop :=
  ∀ (target : Byte) (l : ModeLabel) (s : State), s.seq = .setmode target l →
    ((∃ k t, RunsTo k s t ∧ t.seq = .idle) ↔ ∃ k u, RunsTo k s u ∧ ReadReturnsTarget target u)

/-! ## The Receive Filter Manager -/

/-- R135, R136, R137, R138: from IDLE, after INIT and with `FSC` below 255, FSTRICT stores the identifier in bank 0 if `FSC` = 0 and in bank 1
otherwise, enables it, increments `FSC`, writes the strict mask and `RXIE0`, in this order (its first micro-step only reads), and
nothing else. Undisturbed all of it is done; with a turn of `k` micro-steps the first `k` steps are. Its word is opcode 0x7,
format H. The strict mask's low byte is 0xE0 with bit FMT_SEL_BIT set (R77). -/
def Obligations.FstrictConfiguresTheNextBank : Prop :=
  ∀ (nodeID messageType : Byte) (s : State), SeqIdle s → InitDone s → s.fsc ≠ 255#8 →
    let n : BankNo := if s.fsc = 0#8 then .zero else .one
    let old := filterBank s.bank n
    let maskL : Byte := BitVec.ofNat 8 (0xE0 + 2 ^ s.params.fmtSelBit.val)
    decode (BitVec.ofNat 88 (0x7 + nodeID.toNat * 2 ^ 4 + messageType.toNat * 2 ^ 12)) = .ok (.fstrict nodeID messageType) ∧
    (Undisturbed s → exec (.fstrict nodeID messageType) s = .next { s with
      fsc := s.fsc + 1#8
      bank := { setFilterBank s.bank n ⟨idHigh nodeID messageType, idLow nodeID, 1#1⟩ with
        maskH := 0xFF#8, maskL := maskL, rxie0 := 1#1 } }) ∧
    (∀ k rest, s.agenda = .block k :: rest → ∃ t, exec (.fstrict nodeID messageType) s = .next t ∧
      t = { s with
        agenda := rest
        seq := t.seq
        fsc := if 5 ≤ k then s.fsc + 1#8 else s.fsc
        bank := { setFilterBank s.bank n ⟨if 2 ≤ k then idHigh nodeID messageType else old.idH,
              if 3 ≤ k then idLow nodeID else old.idL, if 4 ≤ k then 1#1 else old.en⟩ with
          maskH := if 6 ≤ k then 0xFF#8 else s.bank.maskH
          maskL := if 7 ≤ k then maskL else s.bank.maskL
          rxie0 := if 8 ≤ k then 1#1 else s.bank.rxie0 } } ∧
      (t.seq = .idle ↔ 8 ≤ k))

/-- R139, R140: FFIRST does what FSTRICT does and then writes the subrange mask, high byte first. After 8 micro-steps the strict mask is in
force, after 9 a mixture, after 10 the subrange mask (R216 (iii)). Its word is opcode 0x8, format H. -/
def Obligations.FfirstLoosensTheSharedMask : Prop :=
  ∀ (nodeID messageType : Byte) (s : State), SeqIdle s → InitDone s → s.fsc ≠ 255#8 →
    let n : BankNo := if s.fsc = 0#8 then .zero else .one
    let old := filterBank s.bank n
    let maskL : Byte := BitVec.ofNat 8 (0xE0 + 2 ^ s.params.fmtSelBit.val)
    decode (BitVec.ofNat 88 (0x8 + nodeID.toNat * 2 ^ 4 + messageType.toNat * 2 ^ 12)) = .ok (.ffirst nodeID messageType) ∧
    (Undisturbed s → exec (.ffirst nodeID messageType) s = .next { s with
      fsc := s.fsc + 1#8
      bank := { setFilterBank s.bank n ⟨idHigh nodeID messageType, idLow nodeID, 1#1⟩ with
        maskH := s.params.subrangeMaskH, maskL := s.params.subrangeMaskL, rxie0 := 1#1 } }) ∧
    (∀ k rest, s.agenda = .block k :: rest → ∃ t, exec (.ffirst nodeID messageType) s = .next t ∧
      t = { s with
        agenda := rest
        seq := t.seq
        fsc := if 5 ≤ k then s.fsc + 1#8 else s.fsc
        bank := { setFilterBank s.bank n ⟨if 2 ≤ k then idHigh nodeID messageType else old.idH,
              if 3 ≤ k then idLow nodeID else old.idL, if 4 ≤ k then 1#1 else old.en⟩ with
          maskH := if 9 ≤ k then s.params.subrangeMaskH else if 6 ≤ k then 0xFF#8 else s.bank.maskH
          maskL := if 10 ≤ k then s.params.subrangeMaskL else if 7 ≤ k then maskL else s.bank.maskL
          rxie0 := if 8 ≤ k then 1#1 else s.bank.rxie0 } } ∧
      (t.seq = .idle ↔ 10 ≤ k))

/-- R202, R146 (derived): FSTRICT and FFIRST are refused by name before the first INIT whatever `FSC` holds (R202; that this reason comes
first is the model's choice, log entry 10), and after it with `FSC` at 255 (R146); otherwise they are accepted. -/
def Obligations.FilterCallsAreRefusedExactlyWhenTheCounterCannotServe : Prop :=
  ∀ (i : Instr) (nodeID messageType : Byte) (s : State),
    i = .fstrict nodeID messageType ∨ i = .ffirst nodeID messageType → SeqIdle s →
    (¬ InitDone s → exec i s = .refused .statefulBeforeInit) ∧
    (InitDone s → s.fsc = 255#8 → exec i s = .refused .fscOverflow) ∧
    (InitDone s → s.fsc ≠ 255#8 → ∃ t, exec i s = .next t)

/-- R141, R142: after an INIT and then any number, at most 255, of FSTRICT and FFIRST calls, `FSC` is their number, bank 0 holds the first
call's header and is enabled if there was one, bank 1 the last call's and is enabled if there were two or more (and is as INIT found it if
not), and the one mask is that of the last call, for both banks. -/
def Obligations.FilterCallsSinceInit : Prop :=
  ∀ (r : Routing) (calls : List (Bool × Byte × Byte)) (s : State), SeqIdle s → Undisturbed s → calls.length ≤ 255 →
    ∃ t, execAll (.init r :: calls.map filterCall) s = .next t ∧ t.seq = .idle ∧
      t.fsc.toNat = calls.length ∧
      (∀ c, calls.head? = some c → t.bank.filt0 = ⟨idHigh c.2.1 c.2.2, idLow c.2.1, 1#1⟩) ∧
      (2 ≤ calls.length → ∀ c, calls.getLast? = some c → t.bank.filt1 = ⟨idHigh c.2.1 c.2.2, idLow c.2.1, 1#1⟩) ∧
      (calls.length < 2 → t.bank.filt1 = s.bank.filt1) ∧
      (∀ c, calls.getLast? = some c →
        t.bank.maskH = (if c.1 then s.params.subrangeMaskH else strictMaskH) ∧
        t.bank.maskL = (if c.1 then s.params.subrangeMaskL else strictMaskL s.params) ∧ t.bank.rxie0 = 1#1)

/-- R145, first part (derived): under the strict mask an enabled bank that holds HDR2B's bytes accepts exactly the frames with that
identifier whose format bit is 0. -/
def Obligations.StrictMaskAcceptsOneStandardIdentifier : Prop :=
  ∀ (p : Params) (b : Bank) (n : BankNo) (nodeID messageType rh rl : Byte),
    filterBank b n = ⟨idHigh nodeID messageType, idLow nodeID, 1#1⟩ → b.maskH = strictMaskH → b.maskL = strictMaskL p →
    (bankAccepts b n rh rl = true ↔
      identifier rh rl = messageType.toNat % 8 * 256 + nodeID.toNat ∧ rl.getLsbD p.fmtSelBit.val = false)

/-- R145, second part (derived): under the subrange mask with its default value (0xF0, 0x00) an enabled bank accepts exactly the frames,
of either format, whose message type and top node bit are the bank's: 128 identifiers. -/
def Obligations.SubrangeMaskAcceptsAHalfRange : Prop :=
  ∀ (b : Bank) (n : BankNo) (nodeID messageType rh rl : Byte),
    filterBank b n = ⟨idHigh nodeID messageType, idLow nodeID, 1#1⟩ → b.maskH = 0xF0#8 → b.maskL = 0x00#8 →
    (bankAccepts b n rh rl = true ↔
      identifier rh rl / 256 = messageType.toNat % 8 ∧ identifier rh rl % 256 / 128 = nodeID.toNat / 128)

/-! ## The Transmit Engine -/

/-- R155: AWAIT with `TXREQ` = 0 is complete after one read and writes nothing, whatever `TXERR` holds; its word is opcode 0x9, format N. -/
def Obligations.AwaitIsCompleteWhenNothingIsPending : Prop :=
  decode 0x9#88 = .ok .await ∧
  ∀ s : State, SeqIdle s → Undisturbed s → TxIdle s → exec .await s = .next s

/-- R156, R157: one iteration of the wait. With `TXREQ` = 1 and `TXERR` = 1 at both reads it requests the abort and is back at A0; with `TXERR` = 0 it
writes nothing and is back at A0; with `TXREQ` = 0 it ends at once. Neither flag is written. -/
def Obligations.OneIterationOfTheWait : Prop :=
  ∀ (s : State), s.seq = .await .a0 →
    (s.bank.txreq = 1#1 → s.bank.txerr = 1#1 →
      microSteps 3 s = { s with bank := { s.bank with abortReq := 1#1 } }) ∧
    (s.bank.txreq = 1#1 → s.bank.txerr = 0#1 → microSteps 2 s = s) ∧
    (s.bank.txreq = 0#1 → microStep s = { s with seq := .idle })

/-- R170: the wait ends exactly when a read at A0 returns 0, in AWAIT and as the wait inside SEND and the second wait of SENDSYNC. -/
def Obligations.WaitEndsExactlyWhenTxreqReadsZero : Prop :=
  ∀ (l : AwaitLabel) (m : Message) (s : State),
    (s.seq = .await l → ((microStep s).seq = .idle ↔ l = .a0 ∧ TxIdle s)) ∧
    (s.seq = .send m (.wait l) → ((microStep s).seq = .send m .s1 ↔ l = .a0 ∧ TxIdle s)) ∧
    (s.seq = .sendsync m (.send (.wait l)) → ((microStep s).seq = .sendsync m (.send .s1) ↔ l = .a0 ∧ TxIdle s)) ∧
    (s.seq = .sendsync m (.wait l) → ((microStep s).seq = .idle ↔ l = .a0 ∧ TxIdle s))

/-- R170, R192 (derived): the infinite run is there. While `TXREQ` is 1 and no other agent has a turn left, however many steps run, each
answers a next state and AWAIT is still in progress; of the register bank `ABORT_REQ` alone may have changed. -/
def Obligations.AwaitNeverFinishesWhileTxreqStays : Prop :=
  ∀ (l : AwaitLabel) (s : State) (k : Nat), s.seq = .await l → Undisturbed s → s.bank.txreq = 1#1 →
    ∃ t, RunsTo k s t ∧ (∃ l', t.seq = .await l') ∧ t.bank = { s.bank with abortReq := t.bank.abortReq }

/-- R192 (derived): under `PeriphEventuallyClearsTxreq`, R192's premise, an AWAIT, SEND or SENDSYNC in progress, at any label, finishes within
as many steps as the agenda has turns and the port words, and one more. AWAIT and SEND wait once, so for them one clear that stands on
the agenda is enough. -/
def Obligations.AwaitFinishesIfThePeripheralClears : Prop :=
  ∀ s : State,
    (commandOf s.seq = some .await ∨ (∃ m, commandOf s.seq = some (.send m)) ∨ ∃ m, commandOf s.seq = some (.sendsync m)) →
    (PeriphEventuallyClearsTxreq s ∨
      (PeriphStillClears s ∧ ∀ m, commandOf s.seq ≠ some (.sendsync m))) →
    ∃ k t, k ≤ s.agenda.length + s.port.length + 1 ∧ RunsTo k s t ∧ t.seq = .idle

/-- R158, R162 to R167: from IDLE with `TXREQ` = 0 and a length of at most 8, SEND sets `TS.code` to SENDING, reads `TXREQ`, writes the identifier,
the length, exactly dataLength data registers by rising index, and `TXREQ`, in this order, and nothing else. Undisturbed it ends at
IDLE with all of it done; with a turn of `k` micro-steps the first `k` steps are. Its word is opcode 0xA, format T. -/
def Obligations.SendHandsTheMessageOver : Prop :=
  ∀ (m : Message) (s : State), SeqIdle s → TxIdle s → m.dataLength.toNat ≤ 8 →
    decode (BitVec.ofNat 88 (0xA + m.nodeID.toNat * 2 ^ 4 + m.messageType.toNat * 2 ^ 12 + m.dataLength.toNat * 2 ^ 20
      + m.data[0].toNat * 2 ^ 24 + m.data[1].toNat * 2 ^ 32 + m.data[2].toNat * 2 ^ 40 + m.data[3].toNat * 2 ^ 48
      + m.data[4].toNat * 2 ^ 56 + m.data[5].toNat * 2 ^ 64 + m.data[6].toNat * 2 ^ 72 + m.data[7].toNat * 2 ^ 80)) = .ok (.send m) ∧
    (Undisturbed s → ∃ t, exec (.send m) s = .next t ∧
      t = { s with
        tsCode := .sending
        bank := { s.bank with
          txidH := idHigh m.nodeID m.messageType, txidL := idLow m.nodeID, txdlc := m.dataLength, txd := t.bank.txd
          txreq := 1#1 } } ∧
      (∀ i : Fin 8, t.bank.txd[i] = if i.val < m.dataLength.toNat then m.data[i] else s.bank.txd[i])) ∧
    (∀ k rest, s.agenda = .block k :: rest → ∃ t, exec (.send m) s = .next t ∧
      t = { s with
        agenda := rest
        seq := t.seq
        tsCode := if 1 ≤ k then .sending else s.tsCode
        bank := { s.bank with
          txidH := if 3 ≤ k then idHigh m.nodeID m.messageType else s.bank.txidH
          txidL := if 4 ≤ k then idLow m.nodeID else s.bank.txidL
          txdlc := if 5 ≤ k then m.dataLength else s.bank.txdlc
          txd := t.bank.txd
          txreq := if 6 + m.dataLength.toNat ≤ k then 1#1 else 0#1 } } ∧
      (∀ i : Fin 8, t.bank.txd[i] = if i.val < m.dataLength.toNat ∧ 6 + i.val ≤ k then m.data[i] else s.bank.txd[i]) ∧
      (t.seq = .idle ↔ 6 + m.dataLength.toNat ≤ k))

/-- R160, R161: with `TXREQ` = 1 SEND and SENDSYNC set `TS.code` to SENDING and wait: nothing of the transmit buffer is written, and they are
not complete. -/
def Obligations.SendWaitsForThePreviousMessage : Prop :=
  ∀ (m : Message) (s : State), SeqIdle s → Undisturbed s → s.bank.txreq = 1#1 → m.dataLength.toNat ≤ 8 →
    exec (.send m) s = .next { s with seq := .send m (.wait .a1), tsCode := .sending } ∧
    exec (.sendsync m) s = .next { s with seq := .sendsync m (.send (.wait .a1)), tsCode := .sending }

/-- R158, R161, R168 (derived; program P2): SEND and SENDSYNC after the wait for the previous message. With `TXREQ` = 0, at any label of that
wait, undisturbed, the rest of the command writes the same identifier, length, data and request as a SEND that did not wait; SEND is then
complete and SENDSYNC in its second wait. `ABORT_REQ` is requested once more if the label was A2, or A1 with `TXERR` = 1; `TS.code` is not
written again (R160). The message is then in the peripheral's hands (R52). (No pure operation is presented meanwhile.) -/
def Obligations.SendAfterItsWaitHandsTheMessageOver : Prop :=
  ∀ (m : Message) (l : AwaitLabel) (s : State), Undisturbed s → TxIdle s → PortWaits s → m.dataLength.toNat ≤ 8 →
    let abort := if l = .a2 ∨ (l = .a1 ∧ s.bank.txerr = 1#1) then 1#1 else s.bank.abortReq
    let endsAt (q : Seq) : Prop := ∃ t, step s = .next t ∧
      t = { s with
        seq := q
        bank := { s.bank with
          txidH := idHigh m.nodeID m.messageType, txidL := idLow m.nodeID, txdlc := m.dataLength, txd := t.bank.txd
          txreq := 1#1, abortReq := abort } } ∧
      (∀ i : Fin 8, t.bank.txd[i] = if i.val < m.dataLength.toNat then m.data[i] else s.bank.txd[i]) ∧
      handedOver t.bank = some (idHigh m.nodeID m.messageType, idLow m.nodeID, m.data.toList.take m.dataLength.toNat)
    (s.seq = .send m (.wait l) → endsAt .idle) ∧
    (s.seq = .sendsync m (.send (.wait l)) → endsAt (.sendsync m (.wait .a1)))

/-- R159: a length of 9 to 15 is refused by name, before anything is written; 0 to 8 is accepted. -/
def Obligations.SendIsRefusedExactlyAboveEightBytes : Prop :=
  ∀ (m : Message) (s : State), SeqIdle s →
    (8 < m.dataLength.toNat →
      exec (.send m) s = .refused .sendLengthOver8 ∧ exec (.sendsync m) s = .refused .sendLengthOver8) ∧
    (m.dataLength.toNat ≤ 8 → (∃ t, exec (.send m) s = .next t) ∧ ∃ t, exec (.sendsync m) s = .next t)

/-- R168, R169: from IDLE with `TXREQ` = 0 SENDSYNC does what SEND does and then waits, not complete; when the peripheral then clears `TXREQ`
it finishes (requesting an abort first if `TXERR` reads 1), with `TS.code` still SENDING. (No pure operation is presented meanwhile.)
Its word is opcode 0xB, format T. -/
def Obligations.SendsyncCompletesWhenThePeripheralClears : Prop :=
  ∀ (m : Message) (s : State), SeqIdle s → Undisturbed s → TxIdle s → PortWaits s → m.dataLength.toNat ≤ 8 →
    decode (BitVec.ofNat 88 (0xB + m.nodeID.toNat * 2 ^ 4 + m.messageType.toNat * 2 ^ 12 + m.dataLength.toNat * 2 ^ 20
      + m.data[0].toNat * 2 ^ 24 + m.data[1].toNat * 2 ^ 32 + m.data[2].toNat * 2 ^ 40 + m.data[3].toNat * 2 ^ 48
      + m.data[4].toNat * 2 ^ 56 + m.data[5].toNat * 2 ^ 64 + m.data[6].toNat * 2 ^ 72 + m.data[7].toNat * 2 ^ 80)) = .ok (.sendsync m) ∧
    ∃ t, exec (.sendsync m) s = .next t ∧
      t = { s with
        seq := .sendsync m (.wait .a1)
        tsCode := .sending
        bank := { s.bank with
          txidH := idHigh m.nodeID m.messageType, txidL := idLow m.nodeID, txdlc := m.dataLength, txd := t.bank.txd
          txreq := 1#1 } } ∧
      (∀ i : Fin 8, t.bank.txd[i] = if i.val < m.dataLength.toNat then m.data[i] else s.bank.txd[i]) ∧
      step { t with agenda := [.agent .periphClearsTxreq] }
        = .next { t with bank := { t.bank with txreq := 0#1 } } ∧
      step { t with bank := { t.bank with txreq := 0#1 } } = .next { t with
        seq := .idle
        bank := { t.bank with txreq := 0#1, abortReq := if s.bank.txerr = 1#1 then 1#1 else s.bank.abortReq } }

/-- R52, R165: after an undisturbed SEND the message in the peripheral's hands is the identifier and exactly the first dataLength bytes. -/
def Obligations.ThePeripheralReadsTheMessageSent : Prop :=
  ∀ (m : Message) (s : State), SeqIdle s → Undisturbed s → TxIdle s → m.dataLength.toNat ≤ 8 →
    ∃ t, exec (.send m) s = .next t ∧
      handedOver t.bank = some (idHigh m.nodeID m.messageType, idLow m.nodeID, m.data.toList.take m.dataLength.toNat)

/-- R160, R218: an ISR that writes `TS.code` after SEND's first micro-step has the last word: SEND completes and does not write SENDING
again. (No pure operation is presented meanwhile.) -/
def Obligations.StatusWrittenDuringSendStands : Prop :=
  ∀ (m : Message) (c : StatusCode) (s : State), SeqIdle s → TxIdle s → PortWaits s → m.dataLength.toNat ≤ 8 →
    s.agenda = [.block 1, .agent (.hostWritesCode c)] →
    ∃ t u, exec (.send m) s = .next t ∧ t.tsCode = .sending ∧ RunsTo 2 t u ∧ u.seq = .idle ∧ u.tsCode = c ∧ u.bank.txreq = 1#1

/-! ## The whole machine -/

/-- R161, R36 (c) (derived): from a state that meets the invariant, as long as `TXREQ` is 1 no step of the block, the peripheral or the ISR writes the
transmit buffer, and only the peripheral's own step clears `TXREQ`; the one exception is a direct write of the host's main line outside
any command (R193). That the peripheral and the ISR do not is R52 and R186 (c), which log entries 13 and 14 mark as erring toward proving;
that the main line does not during a command is log entry 20. -/
def Obligations.TransmitBufferIsSafeWhileThePeripheralOwnsIt : Prop :=
  ∀ s t : State, Inv s → s.bank.txreq = 1#1 → ¬ HostWritesDirectly s → step s = .next t →
    t.bank.txidH = s.bank.txidH ∧ t.bank.txidL = s.bank.txidL ∧ t.bank.txdlc = s.bank.txdlc ∧ t.bank.txd = s.bank.txd ∧
    (t.bank.txreq = 1#1 ∨ ∃ rest, s.agenda = .agent .periphClearsTxreq :: rest)

/-- Every step of every agent, and every direct write of the host between two steps outside any command (R193), keeps the invariant: the sequencer holds a command that has a meaning at a label it can be at, with `TXREQ` = 0
while SEND writes the buffer (R161) and the counter still what S0 read (R137); the timestamp fits TS_WIDTH bits (R15). And every step but a
turn in which the host's main line writes a register directly keeps the bank's: lengths 0 to 8 (R18), identifiers in standard format (R17, R23) and a mode
request that is a mode code (R27). That no ISR writes `FSC` or a register the block writes is R186 (c) (log entry 14), that the peripheral
writes none R52 (log entry 13), that the main line writes them outside any command only log entry 20: the model's reading. -/
def Obligations.EveryStepKeepsTheInvariant : Prop :=
  ∀ s : State, Inv s →
    (∀ t, step s = .next t → Inv t ∧ (BankInv s → ¬ HostWritesDirectly s → BankInv t)) ∧
    (SeqIdle s → ∀ w, Inv (writeDirectly w s))

/-- Both invariants hold at power-on (the values of the bank there are the model's, log entry 1). -/
def Obligations.PowerOnMeetsTheInvariant : Prop := Inv State.reset ∧ BankInv State.reset

/-- R14: only the host puts OK or ERROR into `TS.code`: if a step leaves one of them, it was there before or this step is the host's write
of it. -/
def Obligations.OnlyTheHostWritesOkOrError : Prop :=
  ∀ s t : State, step s = .next t → t.tsCode = .ok ∨ t.tsCode = .error →
    t.tsCode = s.tsCode ∨ ∃ rest, s.agenda = .agent (.hostWritesCode t.tsCode) :: rest

/-- R24, R26, R33, R148 (derived): no step of any agent clears a filter bank's enable ("No agent in the model writes 0", R24), and none the receive
interrupt enable or the driver enable, but for a turn in which the host's main line writes that field directly (R193, log entry 20). That no
turn of the host writes 0 to a bank's enable is the model's choice where R193 and R24 meet (log entry 21). For the peripheral it rests on R52
(log entry 13), for the ISR on R186 (c), U15 (log entry 14). -/
def Obligations.EnablesAreNeverCleared : Prop :=
  ∀ s t : State, step s = .next t →
    (∀ n, (filterBank s.bank n).en = 1#1 → (filterBank t.bank n).en = 1#1) ∧
    (s.bank.rxie0 = 1#1 → t.bank.rxie0 = 1#1 ∨ HostWrites .rxie0 s) ∧
    (s.bank.driveEn = 1#1 → t.bank.driveEn = 1#1 ∨ HostWrites .driveEn s)

/-- R13, R15 to R33 (the owners; derived, since those rules say more), field by field: every step leaves a field as it is, or is a step of one
of its owners. SEQ and the record of INIT: the block alone. `FSC`: the block alone (R16, R53, R137). `TS.code`: the host, the block only NOTHING_SENT in INIT and SENDING in SEND
and SENDSYNC. `TS.timestamp`: the host alone. A register or field of the bank: the operations that list it as written, the peripheral's own
step, or the host's main line outside any command (R193, log entry 20). The pins: INIT of that routing, or the host's pin setup (R32). The block
alone sets `TXREQ` (R20, R161), and it never clears `TXREQ` or `ABORT_REQ`. That no turn of the host writes `FSC`, sets `TXREQ` or clears a
bank's enable is the model's choice where R193 meets those rules (log entry 21). That the ISR writes no register and the peripheral none but its own
rests on R186 (c), U15 (log entry 14) and R48 to R52 (log entry 13). The first clause, that the parameters never change, is the model's
choice (log entry 4). -/
def Obligations.EveryFieldHasItsOwner : Prop :=
  ∀ s t : State, step s = .next t →
    t.params = s.params ∧
    (t.seq = s.seq ∨ ∃ i, WorksAt i s) ∧
    (t.fsc = s.fsc ∨ (∃ r, WorksAt (.init r) s) ∨ (∃ n mt, WorksAt (.fstrict n mt) s ∨ WorksAt (.ffirst n mt) s)) ∧
    (t.initDone = s.initDone ∨ ∃ r, WorksAt (.init r) s) ∧
    (t.tsCode = s.tsCode ∨ AgentTurn (.hostWritesCode t.tsCode) s ∨
      (t.tsCode = .nothingSent ∧ ∃ r, WorksAt (.init r) s) ∨
      (t.tsCode = .sending ∧ ∃ m, WorksAt (.send m) s ∨ WorksAt (.sendsync m) s)) ∧
    (t.timestamp = s.timestamp ∨ ∃ v, AgentTurn (.hostWritesTimestamp v) s) ∧
    (∀ r : Reg, regRead t.bank r = regRead s.bank r ∨ (∃ i, WorksAt i s ∧ blockWrites i r = true) ∨
      (∃ a, AgentTurn a s ∧ periphWrites a r = true) ∨ HostWrites r s) ∧
    (∀ q : Routing,
      ((pins t.bank q).tx = (pins s.bank q).tx ∨ WorksAt (.init q) s ∨ (SeqIdle s ∧ ∃ d, AgentTurn (.hostSetsDirTx q d) s)) ∧
      ((pins t.bank q).rx = (pins s.bank q).rx ∨ WorksAt (.init q) s ∨ (SeqIdle s ∧ ∃ d, AgentTurn (.hostSetsDirRx q d) s))) ∧
    (t.bank.txreq = 1#1 → s.bank.txreq = 1#1 ∨ ∃ m, WorksAt (.send m) s ∨ WorksAt (.sendsync m) s) ∧
    (t.bank.txreq = 0#1 → s.bank.txreq = 0#1 ∨ HostWrites .txreq s ∨ AgentTurn .periphClearsTxreq s) ∧
    (t.bank.abortReq = 0#1 → s.bank.abortReq = 0#1 ∨ HostWrites .abortReq s ∨ AgentTurn .periphClearsAbort s)

/-- R48 to R52: what a step of the peripheral may do: clear `TXREQ`, write `TXERR`, clear `ABORT_REQ`, write any `MODE_STAT`; each writes that field
and nothing else of the whole state. -/
def Obligations.PeripheralTakesOnlyItsLiberties : Prop :=
  ∀ (s : State) (rest : List Turn) (v : BitVec 1) (m : BitVec 3),
    step { s with agenda := .agent .periphClearsTxreq :: rest }
      = .next { s with agenda := rest, bank := { s.bank with txreq := 0#1 } } ∧
    step { s with agenda := .agent (.periphSetsTxerr v) :: rest }
      = .next { s with agenda := rest, bank := { s.bank with txerr := v } } ∧
    step { s with agenda := .agent .periphClearsAbort :: rest }
      = .next { s with agenda := rest, bank := { s.bank with abortReq := 0#1 } } ∧
    step { s with agenda := .agent (.periphReportsMode m) :: rest }
      = .next { s with agenda := rest, bank := { s.bank with modeStat := m } }

/-- R186, R193, R32 (derived): what each step of the host does, as a whole next state. It writes `TS.code` or `TS.timestamp` (the value kept to
TS_WIDTH bits, R15), evaluates an operation (a pure one returns its result, a stateful one does nothing, R186 (c)); and outside any
command, while SEQ is IDLE, it writes one pin direction (R32) or one register or field (R193), but as a turn of the run not a 0 into a bank's enable
(R24) nor a 1 into `TXREQ` (R161): the model's choice where R193 meets those rules (log entry 21). During a command the direct writes do
nothing: that, and that the ISR makes none of them, is the model's choice (log entries 14 and 20; for the ISR R186 (c)). And nothing is
protected from the host (R193): outside any command its direct writes between the steps lead from any state to every state with the same
sequencer, record of INIT, ports and agenda, whatever the block-owned state and the register bank are there (a timestamp of TS_WIDTH bits). -/
def Obligations.HostTakesOnlyItsLiberties : Prop :=
  (∀ (s : State) (rest : List Turn) (c : StatusCode) (v : Nat) (i : Instr) (r : Routing) (d : Direction) (b : Byte) (x : Reg),
    let u : State := { s with agenda := rest }
    let after (a : Act) (t : State) : Prop := step { s with agenda := .agent a :: rest } = .next t
    after (.hostWritesCode c) { u with tsCode := c } ∧
    after (.hostWritesTimestamp v) { u with timestamp := v % 2 ^ s.params.timestampWidth } ∧
    (∀ res, exec i u = .next { u with resultPort := some res } → i.isPure = true →
      after (.hostEvaluates i) { u with resultPort := some res }) ∧
    (i.isPure = false → after (.hostEvaluates i) u) ∧
    (SeqIdle s →
      after (.hostSetsDirTx r d) { u with bank := setPins s.bank r ⟨d, (pins s.bank r).rx⟩ } ∧
      after (.hostSetsDirRx r d) { u with bank := setPins s.bank r ⟨(pins s.bank r).tx, d⟩ } ∧
      ((∀ n, x = .filtEn n → b.toNat % 2 = 1) → (x = .txreq → b.toNat % 2 = 0) →
        after (.hostWritesRegister x b) { u with bank := regWrite s.bank x b }) ∧
      ((∃ n, x = .filtEn n) → b.toNat % 2 = 0 → after (.hostWritesRegister x b) u) ∧
      (x = .txreq → b.toNat % 2 = 1 → after (.hostWritesRegister x b) u)) ∧
    (s.seq ≠ .idle →
      after (.hostSetsDirTx r d) u ∧ after (.hostSetsDirRx r d) u ∧ after (.hostWritesRegister x b) u)) ∧
  (∀ s t : State, SeqIdle s → t = { s with tsCode := t.tsCode, timestamp := t.timestamp, fsc := t.fsc, bank := t.bank } →
    t.timestamp < 2 ^ s.params.timestampWidth → Moves s t)

/-- R191, R60, R192: a stateful command presented while SEQ is not IDLE is not accepted, which is no refusal: the state stays; a step leaves every
word on the port that is no pure operation's (that an INVALID word, too, waits there unrefused is the model's choice, log entry 9); and a pure
operation's word is served meanwhile, whether or not the command in progress ever finishes, with no effect but its result. -/
def Obligations.BusyBlockAcceptsNoStatefulCommand : Prop :=
  (∀ (i : Instr) (s : State), i.isPure = false → s.seq ≠ .idle → exec i s = .next s) ∧
  (∀ s t : State, s.seq ≠ .idle → PortWaits s → step s = .next t → t.port = s.port) ∧
  (∀ (s : State) (w : CommandWord) (rest : List CommandWord) (i : Instr),
    s.seq ≠ .idle → (∀ a later, s.agenda ≠ .agent a :: later) → s.port = w :: rest → decode w = .ok i → i.isPure = true →
    ∃ r, step s = .next { s with port := rest, resultPort := some r })

/-- R54: with nothing presented on the port and no other agent's turn the block does nothing, at power-on and in every other IDLE
state. -/
def Obligations.NothingHappensWithoutACommand : Prop :=
  step State.reset = .next State.reset ∧
  ∀ s : State, SeqIdle s → Undisturbed s → s.port = [] → step s = .next s

/-- R43: after `RegWrite(NAME, v)` a read of NAME returns `trunc_w(v)`, a read of every other register or field what it returned before,
the pin directions are as before, and of the state the bank alone has changed; and a write of a pin direction changes that direction alone. -/
def Obligations.RegisterWritesChangeOneField : Prop :=
  (∀ (s : State) (x y : Reg) (v : Byte),
    regRead (s.write x v).bank x = BitVec.ofNat 8 (v.toNat % 2 ^ regWidth x) ∧
    (y ≠ x → regRead (s.write x v).bank y = regRead s.bank y) ∧
    (∀ r, pins (s.write x v).bank r = pins s.bank r) ∧
    s.write x v = { s with bank := (s.write x v).bank }) ∧
  (∀ (b : Bank) (r q : Routing) (d : Direction) (y : Reg),
    pins (writeDirTx b r d) q = (if q = r then ⟨d, (pins b r).rx⟩ else pins b q) ∧
    pins (writeDirRx b r d) q = (if q = r then ⟨(pins b r).tx, d⟩ else pins b q) ∧
    regRead (writeDirTx b r d) y = regRead b y ∧ regRead (writeDirRx b r d) y = regRead b y)

/-- The frames of BAUD, SETMODE and AWAIT (R112, R124, R155; derived): whatever the turns of the agenda, BAUD changes only `BRP` and the two
timing registers, SETMODE only `MODE_REQ`, AWAIT only `ABORT_REQ`, beside SEQ and the agenda. -/
def Obligations.FramesOfBaudSetmodeAndAwait : Prop :=
  ∀ s t : State,
    (∀ bitrate clock, Works (.baud bitrate clock) s t →
      t = { s with
        seq := t.seq, agenda := t.agenda
        bank := { s.bank with brp := t.bank.brp, timingA := t.bank.timingA, timingB := t.bank.timingB } }) ∧
    (∀ target, Works (.setmode target) s t →
      t = { s with seq := t.seq, agenda := t.agenda, bank := { s.bank with modeReq := t.bank.modeReq } }) ∧
    (Works .await s t →
      t = { s with seq := t.seq, agenda := t.agenda, bank := { s.bank with abortReq := t.bank.abortReq } })

/-- The frame of FSTRICT and FFIRST (R137, R139; derived): whatever the turns of the agenda, they change only `FSC`, the filter banks, the mask and
`RXIE0`, beside SEQ and the agenda. And in every piece of their run, from a state whose sequencer is as the invariant says: up to the increment
of `FSC` the bank not selected stays (with `FSC` not 0 bank 0, with `FSC` = 0 bank 1), and from the increment on both banks stay. -/
def Obligations.FrameOfTheFilterCalls : Prop :=
  ∀ (nodeID messageType : Byte) (s t : State) (i : Instr), i = .fstrict nodeID messageType ∨ i = .ffirst nodeID messageType →
    Works i s t →
    t = { s with
      seq := t.seq, agenda := t.agenda, fsc := t.fsc
      bank := { s.bank with
        filt0 := t.bank.filt0, filt1 := t.bank.filt1, maskH := t.bank.maskH, maskL := t.bank.maskL, rxie0 := t.bank.rxie0 } } ∧
    (seqOk s = true →
      (s.fsc ≠ 0#8 → t.bank.filt0 = s.bank.filt0) ∧ (s.fsc = 0#8 → t.bank.filt1 = s.bank.filt1) ∧
      (pastBankWrites s.seq = true → t.bank.filt0 = s.bank.filt0 ∧ t.bank.filt1 = s.bank.filt1))

/-- The frame of SEND and SENDSYNC (R158, R165, R168; derived): whatever the turns of the agenda, they change only `TS.code`, the transmit
buffer, `TXREQ` and `ABORT_REQ`, beside SEQ and the agenda; and from a state whose sequencer is as the invariant says, no data register from
dataLength up. -/
def Obligations.FrameOfSendAndSendsync : Prop :=
  ∀ (m : Message) (s t : State) (i : Instr), i = .send m ∨ i = .sendsync m → Works i s t →
    t = { s with
      seq := t.seq, agenda := t.agenda, tsCode := t.tsCode
      bank := { s.bank with
        txidH := t.bank.txidH, txidL := t.bank.txidL, txdlc := t.bank.txdlc, txd := t.bank.txd, txreq := t.bank.txreq
        abortReq := t.bank.abortReq } } ∧
    (seqOk s = true → ∀ j : Fin 8, m.dataLength.toNat ≤ j.val → t.bank.txd[j] = s.bank.txd[j])
end

