-- ==== Sys2Proof/Tests/Slice0.lean ====
section
/-! SUPPORT. The model's own tests. Expected values come from the spec: the encodings of R64, the vectors V1 to V10 and S1 to S8 of
95_test_vectors.md, and hand calculation from the rules named. Then the witnesses: for every statement with hypotheses a
state and operands that meet all of them together. -/

namespace Sys2Proof.Tests

open Sys2Proof Sys2Proof.Machine

/-! ## Helpers -/

/-- The next state of an outcome, if there is one. -/
def after (o : Host.Outcome State Fault Refusal) : Option State :=
  match o with
  | .next s => some s
  | .fault _ => none
  | .refused _ => none

/-- The reason an outcome is refused, if it is. -/
def refusalOf (o : Host.Outcome State Fault Refusal) : Option Refusal :=
  match o with
  | .next _ => none
  | .fault _ => none
  | .refused r => some r

/-- Parameters with numbers, the defaults where the spec gives one: a test cannot evaluate a value the spec leaves open. -/
def params : Params := { timingA := 0xBB#8, timingB := 0x02#8, timestampWidth := 16 }

/-- SEQ IDLE, INIT done, `FSC` = 0, no other agent, nothing pending; `TXD` as at the start of table V10. -/
def ready : State :=
  { State.reset with
    params := params, initDone := true
    bank := { Bank.powerOn with txd := #v[0xF0#8, 0xF1#8, 0xF2#8, 0xF3#8, 0xF4#8, 0xF5#8, 0xF6#8, 0xF7#8] } }

/-- `ready` with `TXREQ` = 1. -/
def sending : State := { ready with bank := { ready.bank with txreq := 1#1 } }

/-- The message of V10, row 1. -/
def message3 : Message := ⟨0x12#8, 0#8, 3#4, #v[0xAA#8, 0xBB#8, 0xCC#8, 0#8, 0#8, 0#8, 0#8, 0#8]⟩

/-- A message of a given length, for the boundaries. -/
def messageOfLength (len : BitVec 4) : Message := ⟨0x12#8, 0#8, len, #v[1#8, 2#8, 3#8, 4#8, 5#8, 6#8, 7#8, 8#8]⟩

/-! ## Decoding: one word per constructor, bit by bit from R64 (the words are those of 95_test_vectors.md) -/

/-- V1: type 9 (W[19:12]), node 0x34 (W[11:4]), opcode 0x0. -/
theorem test_decode_hdr2b : decode 0x09340#88 = .ok (.hdr2b 0x34#8 9#8) := by decide
/-- V2: low 0x34 (W[19:12]), high 0x12 (W[11:4]), opcode 0x1. -/
theorem test_decode_b2hdr : decode 0x34121#88 = .ok (.b2hdr 0x12#8 0x34#8) := by decide
/-- V3: sc 8, fw 4, err 2, op 5, opcode 0x2. -/
theorem test_decode_penc : decode 0x080402052#88 = .ok (.penc 5#8 2#8 4#8 8#8) := by decide
/-- V3: byte 0xA3, opcode 0x3. -/
theorem test_decode_pdecop : decode 0xA33#88 = .ok (.pdecop 0xA3#8) := by decide
/-- V4: clock 65535 (W[35:20]), bitrate 1 (W[19:4]), opcode 0x4. -/
theorem test_decode_baud : decode 0xFFFF00014#88 = .ok (.baud 1#16 65535#16) := by decide
/-- V5: routing 1 (W[4]), opcode 0x5; W[5] is reserved. -/
theorem test_decode_init : decode 0x15#88 = .ok (.init .alternate) ∧ decode 0x25#88 = .error .reservedBit := by decide
/-- V6: target 0x0C, opcode 0x6. -/
theorem test_decode_setmode : decode 0xC6#88 = .ok (.setmode 0x0C#8) := by decide
/-- V7: type 1, node 0x12, opcode 0x7. -/
theorem test_decode_fstrict : decode 0x1127#88 = .ok (.fstrict 0x12#8 1#8) := by decide
/-- V7: type 2, node 0x80, opcode 0x8. -/
theorem test_decode_ffirst : decode 0x2808#88 = .ok (.ffirst 0x80#8 2#8) := by decide
/-- V9 and P5: opcode 0x9, every other bit reserved. -/
theorem test_decode_await : decode 0x9#88 = .ok .await ∧ decode 0x100009#88 = .error .reservedBit := by decide
/-- V10: data[0] = 0xAA at W[31:24], length 3 at W[23:20], type 0, node 0x12, opcode 0xA. -/
theorem test_decode_send : decode 0xCCBBAA30012A#88 = .ok (.send message3) := by decide
/-- P2: data [0xDE, 0xAD], length 2, type 2, node 0xA5, opcode 0xB; W[87:80], the top byte of the word, is data[7]. -/
theorem test_decode_sendsync : decode 0x770000000000ADDE202A5B#88 =
    .ok (.sendsync ⟨0xA5#8, 2#8, 2#4, #v[0xDE#8, 0xAD#8, 0#8, 0#8, 0#8, 0#8, 0#8, 0x77#8]⟩) := by decide
/-- R65: the four reserved opcodes. -/
theorem test_reserved_opcodes : decode 0xC#88 = .error .reservedOpcode ∧ decode 0xD#88 = .error .reservedOpcode ∧
    decode 0xE#88 = .error .reservedOpcode ∧ decode 0xF#88 = .error .reservedOpcode := by decide
/-- R67: the bytes not listed are 0 unless the line gives them with `pad`. -/
theorem test_assembleData : assembleData [0xAA#8, 0xBB#8] [0x99#8] =
    #v[0xAA#8, 0xBB#8, 0x99#8, 0#8, 0#8, 0#8, 0#8, 0#8] := by decide

/-! ## WellFormed: an ill-formed term for each check (R66) -/

/-- bitrate 0 (R116). -/
theorem test_ill_formed_baud : Instr.wellFormed (.baud 0#16 40#16) = false := by decide
/-- Target 3, and 0xFB, whose low three bits are 3 (R129). -/
theorem test_ill_formed_setmode : Instr.wellFormed (.setmode 3#8) = false ∧ Instr.wellFormed (.setmode 0xFB#8) = false := by
  decide
/-- dataLength 9 (R159). -/
theorem test_ill_formed_send : Instr.wellFormed (.send (messageOfLength 9#4)) = false := by decide
/-- dataLength 15 (R159). -/
theorem test_ill_formed_sendsync : Instr.wellFormed (.sendsync (messageOfLength 15#4)) = false := by decide
/-- The neighbours that have a meaning. -/
theorem test_well_formed : Instr.wellFormed (.baud 1#16 0#16) = true ∧ Instr.wellFormed (.setmode 0x0C#8) = true ∧
    Instr.wellFormed (.send (messageOfLength 8#4)) = true ∧ Instr.wellFormed (.fstrict 0xFF#8 0xFF#8) = true := by decide

/-! ## Named values (R29, R74, R75, R76, R81) -/

theorem test_mode_codes : Mode.config.code = 0b100#3 ∧ Mode.loopback.code = 0b010#3 ∧ Mode.sleep.code = 0b001#3 ∧
    Mode.normal.code = 0b000#3 := by decide
theorem test_mode_names : Mode.ofCode? 4#3 = some .config ∧ Mode.ofCode? 3#3 = none ∧ Mode.ofCode? 5#3 = none ∧
    Mode.ofCode? 6#3 = none ∧ Mode.ofCode? 7#3 = none := by decide
theorem test_message_type_names : MessageType.ofCode? MessageType.complexReply.code = some .complexReply ∧
    MessageType.complexReply.code = 4#3 ∧ MessageType.heartbeat.code = 1#3 ∧ MessageType.ofCode? 5#3 = none := by decide
theorem test_operation_names : Operation.on.code = 1#2 ∧ Operation.ofCode 3#2 = .get ∧ Operation.ofCode 2#2 = .off := by decide
theorem test_status_codes : StatusCode.ok.code = 0#2 ∧ StatusCode.error.code = 1#2 ∧ StatusCode.sending.code = 2#2 ∧
    StatusCode.nothingSent.code = 3#2 := by decide
/-- R77: 0xE8 with FMT_SEL_BIT = 3. -/
theorem test_strict_mask : strictMaskL params = 0xE8#8 := by decide

/-! ## One step of each instruction, from its command word -/

/-- The state after one step with the word `w` on the port of `s`. -/
def present (w : CommandWord) (s : State) : Option State := after (step { s with port := [w] })

/-- `ready` with a given `FSC`. -/
def counted (c : Byte) : State := { ready with fsc := c }

/-- `ready` with a given `MODE_STAT`. -/
def inMode (m : BitVec 3) : State := { ready with bank := { ready.bank with modeStat := m } }

/-- V1: node 0x34, type 255 is cut to 7. -/
theorem test_hdr2b : (present 0xFF340#88 ready).map (·.resultPort) = some (some (.identifierBytes 0xE6#8 0x80#8)) := by decide
/-- V1: node 0xFF, type 4, the largest named header. -/
theorem test_hdr2b_largest : (present 0x4FF0#88 ready).map (·.resultPort) = some (some (.identifierBytes 0x9F#8 0xE0#8)) := by
  decide
/-- V2: the format-selector bit is ignored. -/
theorem test_b2hdr : (present 0xE89F1#88 ready).map (·.resultPort) = some (some (.header 4#3 0xFF#8)) := by decide
/-- V2: arbitrary bytes. -/
theorem test_b2hdr_bytes : (present 0x34121#88 ready).map (·.resultPort) = some (some (.header 0#3 0x91#8)) := by decide
/-- V3: every field over-wide. -/
theorem test_penc : (present 0x80402052#88 ready).map (·.resultPort) = some (some (.payloadByte 0x40#8)) := by decide
/-- V3: operation 1, firmware 2, counter 5. -/
theorem test_penc_fields : (present 0x50200012#88 ready).map (·.resultPort) = some (some (.payloadByte 0x55#8)) := by decide
/-- V3: 0xBF is OFF. -/
theorem test_pdecop : (present 0xBF3#88 ready).map (·.resultPort) = some (some (.operation 2#2)) := by decide
/-- V4: the largest quotient, 2047967 mod 64 = 31, and the two constants. -/
theorem test_baud : (present 0xFFFF00014#88 ready).map (fun t => (t.bank.brp, t.bank.timingA, t.bank.timingB, t.seq)) =
    some (31#6, 0xBB#8, 0x02#8, .idle) := by decide
/-- V4: q = 0 gives 63; q = 65 wraps to 0. -/
theorem test_baud_wraps : (present 0x3007D4#88 ready).map (·.bank.brp) = some 63#6 ∧
    (present 0x2800134#88 ready).map (·.bank.brp) = some 0#6 := by decide
/-- V5, row 2: the alternate pins alone, and the counter. -/
theorem test_init : (present 0x15#88 (counted 2#8)).map (fun t => (t.bank.pinsAlternate, t.bank.pinsPrimary, t.bank.driveEn, t.fsc)) =
    some (⟨.output, .input⟩, ⟨.input, .input⟩, 1#1, 0#8) := by decide
/-- V5: `TS.code` back to NOTHING_SENT. -/
theorem test_init_status : (present 0x5#88 { ready with tsCode := .sending }).map (·.tsCode) = some .nothingSent := by decide
/-- V6, row 5: four micro-steps, S0 to S3; the request is written, the read at S3 did not return the target, so S1 is next. -/
theorem test_setmode_requests : (present 0x16#88 { inMode 0#3 with agenda := [.block 4] }).map (fun t => (t.bank.modeReq, t.seq)) =
    some (1#3, .setmode 1#8 .s1) := by decide
/-- V6, row 6: 0x0C is CONFIG; the guard holds and nothing is written. -/
theorem test_setmode_guard : (present 0xC6#88 (inMode 4#3)).map (fun t => (t.bank.modeReq, t.seq)) = some (0#3, .idle) := by
  decide
/-- V7, row 1. -/
theorem test_fstrict : (present 0x1127#88 ready).map (fun t => (t.bank.filt0, t.bank.maskH, t.bank.maskL, t.fsc)) =
    some (⟨0x22#8, 0x40#8, 1#1⟩, 0xFF#8, 0xE8#8, 1#8) := by decide
/-- V7, row 3: the third call overwrites bank 1. -/
theorem test_fstrict_third : (present 0x347#88 (counted 2#8)).map (fun t => (t.bank.filt1, t.bank.filt0, t.bank.rxie0, t.fsc)) =
    some (⟨0x06#8, 0x80#8, 1#1⟩, ⟨0#8, 0#8, 0#1⟩, 1#1, 3#8) := by decide
/-- V7, row 2. -/
theorem test_ffirst : (present 0x2808#88 (counted 1#8)).map (fun t => (t.bank.filt1, t.bank.maskH, t.bank.maskL, t.fsc)) =
    some (⟨0x50#8, 0x00#8, 1#1⟩, 0xF0#8, 0x00#8, 2#8) := by decide
/-- R216 (iii): after nine of the ten micro-steps the mask is (0xF0, 0xE8). -/
theorem test_ffirst_torn : (present 0x2808#88 { ready with agenda := [.block 9] }).map (fun t => (t.bank.maskH, t.bank.maskL, t.bank.rxie0)) =
    some (0xF0#8, 0xE8#8, 1#1) := by decide
/-- V9: `TXREQ` = 0, one read, no write, `TXERR` ignored. -/
theorem test_await_idle : (present 0x9#88 { ready with bank := { ready.bank with txerr := 1#1 } }).map (fun t => (t.seq, t.bank.abortReq)) =
    some (.idle, 0#1) := by decide
/-- V9: both flags set, three micro-steps: the abort is requested and the wait goes on. -/
theorem test_await_abort : (present 0x9#88 { sending with bank := { sending.bank with txerr := 1#1 }, agenda := [.block 3] }).map
    (fun t => (t.seq, t.bank.abortReq)) = some (.await .a0, 1#1) := by decide
/-- V10, row 1: three data registers written, five left, handed over. -/
theorem test_send : (present 0xCCBBAA30012A#88 ready).map (fun t => (t.bank.txd, t.bank.txdlc, t.bank.txreq, t.tsCode)) =
    some (#v[0xAA#8, 0xBB#8, 0xCC#8, 0xF3#8, 0xF4#8, 0xF5#8, 0xF6#8, 0xF7#8], 3#4, 1#1, .sending) := by decide
/-- V10, last row: with `TXREQ` = 1 the buffer is not written. -/
theorem test_send_waits : (present 0xCCBBAA30012A#88 sending).map (fun t => (t.bank.txidH, t.bank.txd[0], t.tsCode)) =
    some (0#8, 0xF0#8, .sending) := by decide
/-- V10, row 8: node 1, type 1, no data; handed over and waiting. -/
theorem test_sendsync : (present 0x101B#88 ready).map (fun t => (t.bank.txidH, t.bank.txidL, t.bank.txdlc, t.bank.txreq)) =
    some (0x20#8, 0x20#8, 0#4, 1#1) := by decide
/-- V10, row 8: it is not complete until the peripheral clears `TXREQ`. -/
theorem test_sendsync_waits : ((present 0x101B#88 ready).map (·.isIdle)) = some false := by decide

/-! ## The other agents -/

/-- The banks of V8 under a given mask. -/
def filters (h l : Byte) : Bank :=
  { Bank.powerOn with filt0 := ⟨0x22#8, 0x40#8, 1#1⟩, filt1 := ⟨0x50#8, 0x00#8, 1#1⟩, maskH := h, maskL := l }

/-- R60, R192: a pure word is served while AWAIT hangs, and the INIT behind it waits. -/
theorem test_pure_while_busy : (after (step { sending with seq := .await .a0, port := [0xA33#88, 0x5#88] })).map
    (fun t => (t.resultPort, t.port, t.seq)) = some (some (.operation 2#2), [0x5#88], .await .a0) := by decide
/-- R193: the main line writes `MODE_REQ` by itself (R211), but only outside a command; R24, R161: no turn
writes 0 into an enable or 1 into `TXREQ`. -/
theorem test_host_writes :
    (perform (.hostWritesRegister .modeReq 0xFF#8) ready).bank.modeReq = 7#3 ∧
    (perform (.hostWritesRegister .modeReq 0xFF#8) { ready with seq := .await .a0 }).bank.modeReq = 0#3 ∧
    (perform (.hostSetsDirTx .alternate .output) ready).bank.pinsAlternate = ⟨.output, .input⟩ ∧
    (perform (.hostWritesRegister (.filtEn .one) 0#8) { ready with bank := filters 0#8 0#8 }).bank.filt1.en = 1#1 ∧
    (perform (.hostWritesRegister .txreq 1#8) ready).bank.txreq = 0#1 := by decide
/-- R193: nothing is protected from the host. -/
theorem test_writes_directly :
    (writeDirectly (.register (.filtEn .one) 0#8) { ready with bank := filters 0#8 0#8 }).bank.filt1.en = 0#1 ∧
    (writeDirectly (.register .txreq 1#8) ready).bank.txreq = 1#1 ∧
    (writeDirectly (.fsc 7#8) ready).fsc = 7#8 := by decide

/-! ## Inputs without meaning (P5) -/

theorem test_refusals :
    refusalOf (step { ready with port := [0x2800004#88] }) = some .baudBitrateZero ∧
    refusalOf (step { ready with port := [0x36#88] }) = some .setmodeReservedTarget ∧
    refusalOf (step { ready with port := [0x90012A#88] }) = some .sendLengthOver8 ∧
    refusalOf (step { ready with port := [0xC#88] }) = some .invalidCommandWord ∧
    refusalOf (step { ready with port := [0x100009#88] }) = some .invalidCommandWord := by decide
theorem test_refusals_of_filters :
    refusalOf (step { State.reset with port := [0x1127#88] }) = some .statefulBeforeInit ∧
    refusalOf (step { counted 255#8 with port := [0x2808#88] }) = some .fscOverflow := by decide

/-! ## The acceptance predicate (V8) -/

/-- Rows 1, 2, 3 and 9 under the strict mask. -/
theorem test_accepts_strict : bankAccepts (filters 0xFF#8 0xE8#8) .zero 0x22#8 0x40#8 = true ∧
    accepts (filters 0xFF#8 0xE8#8) 0x22#8 0x48#8 = false ∧ accepts (filters 0xFF#8 0xE8#8) 0x22#8 0x60#8 = false ∧
    bankAccepts (filters 0xFF#8 0xE8#8) .one 0x50#8 0x00#8 = true := by decide
/-- Rows 2, 5, 7 and 12 under the subrange mask. -/
theorem test_accepts_subrange : bankAccepts (filters 0xF0#8 0x00#8) .zero 0x22#8 0x48#8 = true ∧
    bankAccepts (filters 0xF0#8 0x00#8) .zero 0x2F#8 0xE0#8 = true ∧ accepts (filters 0xF0#8 0x00#8) 0x30#8 0x00#8 = false ∧
    accepts (filters 0xF0#8 0x00#8) 0x4F#8 0xE0#8 = false := by decide

/-! ## Witnesses: for every statement with hypotheses, a state and operands that meet all of them together

One conjunct for each clause, at the boundary values of its range. `ready` is IDLE, undisturbed, INIT done, `FSC` = 0, `TXREQ` = 0. -/

/-- `ready` with one turn of `k` micro-steps for the block. -/
def granted (k : Nat) : State := { ready with agenda := [.block k] }

theorem witness_EncodeOfADecodedWordIsTheWord : decode 0xFF340#88 = .ok (.hdr2b 0x34#8 0xFF#8) := by decide

/-- A command at IDLE, and a pure operation's word at a block that hangs in AWAIT. -/
theorem witness_StepExecutesTheDecodedCommand :
    (let s : State := { granted 2 with port := [0x5#88] };
      (SeqIdle s ∨ (Instr.init .primary).isPure = true) ∧ (∀ a later, s.agenda ≠ .agent a :: later) ∧
        s.port = 0x5#88 :: [] ∧ decode 0x5#88 = .ok (.init .primary)) ∧
    (let s : State := { sending with seq := .await .a1, port := [0xA33#88, 0x5#88] };
      (SeqIdle s ∨ (Instr.pdecop 0xA3#8).isPure = true) ∧ (∀ a later, s.agenda ≠ .agent a :: later) ∧
        s.port = 0xA33#88 :: [0x5#88] ∧ decode 0xA33#88 = .ok (.pdecop 0xA3#8)) :=
  ⟨⟨.inl rfl, fun _ _ h => (by cases h), rfl, by decide⟩, ⟨.inr rfl, fun _ _ h => (by cases h), rfl, by decide⟩⟩

theorem witness_InvalidWordIsRefused :
    let s : State := { ready with port := [0xC#88, 0x5#88] }
    SeqIdle s ∧ (∀ a later, s.agenda ≠ .agent a :: later) ∧ s.port = 0xC#88 :: [0x5#88] ∧
      decode 0xC#88 = .error .reservedOpcode :=
  ⟨rfl, fun _ _ h => (by cases h), rfl, by decide⟩

theorem witness_HeaderAndBytesRoundTrip :
    (∃ t u, exec (.hdr2b 0x34#8 9#8) ready = .next t ∧ t.resultPort = some (.identifierBytes 0x26#8 0x80#8) ∧
      exec (.b2hdr 0x26#8 0x80#8) t = .next u) ∧
    (∃ t u, exec (.b2hdr 0x9F#8 0xE8#8) ready = .next t ∧ t.resultPort = some (.header 4#3 0xFF#8) ∧
      exec (.hdr2b 0xFF#8 ((4#3).setWidth 8)) t = .next u) :=
  ⟨⟨_, _, rfl, by decide, rfl⟩, ⟨_, _, rfl, by decide, rfl⟩⟩

theorem witness_HeadersMapOneToOneOntoStandardPairs : 0xE0#8 &&& 0x1F#8 = 0#8 ∧ 0x00#8 &&& 0x1F#8 = 0#8 := by decide

theorem witness_PayloadRoundTripAndBijection :
    ∃ t u, exec (.penc 5#8 2#8 4#8 8#8) ready = .next t ∧ t.resultPort = some (.payloadByte 0x40#8) ∧
      exec (.pdecop 0x40#8) t = .next u :=
  ⟨_, _, rfl, by decide, rfl⟩

theorem witness_PureOperationsReadNoState : (Instr.hdr2b 0#8 0#8).isPure = true ∧ (Instr.b2hdr 0#8 0#8).isPure = true ∧
    (Instr.penc 0#8 0#8 0#8 0#8).isPure = true ∧ (Instr.pdecop 0#8).isPure = true := by decide

theorem witness_BaudWritesTheThreeTimingRegisters : SeqIdle ready ∧ Undisturbed ready ∧ 1#16 ≠ 0#16 ∧
    SeqIdle (granted 0) ∧ (granted 0).agenda = .block 0 :: [] ∧ SeqIdle (granted 3) ∧ (granted 3).agenda = .block 3 :: [] := by
  decide

/-- Quotients 1, 64, 65 and 0: V4, rows 4, 12, 13 and 16. -/
theorem witness_PrescalerWrapsModulo64 : SeqIdle ready ∧ Undisturbed ready ∧
    (1000#16 ≠ 0#16 ∧ baudQuotient 1000#16 40#16 = 1) ∧ (20#16 ≠ 0#16 ∧ baudQuotient 20#16 41#16 = 64) ∧
    (19#16 ≠ 0#16 ∧ baudQuotient 19#16 40#16 = 65) ∧ (125#16 ≠ 0#16 ∧ baudQuotient 125#16 3#16 = 0) := by decide

theorem witness_BaudIsRefusedExactlyAtBitrateZero : SeqIdle ready ∧ Undisturbed ready ∧ 0#16 = 0#16 ∧ 1#16 ≠ 0#16 := by decide

theorem witness_InitTakesItsFiveSteps : SeqIdle ready ∧ Undisturbed ready ∧
    SeqIdle (granted 0) ∧ (granted 0).agenda = .block 0 :: [] ∧ SeqIdle (granted 5) ∧ (granted 5).agenda = .block 5 :: [] := by
  decide

theorem witness_InitIsIdempotent : SeqIdle ready ∧ Undisturbed ready := by decide

/-- Started, and in the middle. -/
theorem witness_InitWritesNothingElse :
    (∃ t, Works (.init .primary) (granted 2) t) ∧
    ∃ t, Works (.init .alternate) { granted 2 with seq := .init .alternate .s2 } t :=
  ⟨⟨_, .inl rfl⟩, ⟨_, .inr ⟨rfl, rfl⟩⟩⟩

theorem witness_SetmodeWritesNothingInTheTargetMode : SeqIdle (inMode 4#3) ∧ Undisturbed (inMode 4#3) ∧
    legalTarget 0x0C#8 = true ∧ ModeIs (trunc3 0x0C#8) (inMode 4#3) := by decide

/-- A word of a stateful operation, or nothing, does not get ahead of the command in progress. -/
theorem port_waits_empty (s : State) (h : s.port = []) : PortWaits s := fun _ _ _ e => by rw [h] at e; cases e

theorem port_waits_init (s : State) (h : s.port = [0x5#88]) : PortWaits s := fun w rest i e d => by
  rw [h] at e
  cases e
  have hd : decode 0x5#88 = .ok (.init .primary) := by decide
  rw [hd] at d
  cases d
  rfl

/-- Both clauses: the peripheral reports the target, and a reserved value; nothing presented, and an INIT waiting. -/
theorem witness_SetmodeRequestsUntilTheTargetIsReported :
    (let s : State := { inMode 4#3 with agenda := [.block 3, .agent (.periphReportsMode 0#3)], port := [0x5#88] };
      SeqIdle s ∧ legalTarget 0#8 = true ∧ ¬ ModeIs (trunc3 0#8) s ∧ PortWaits s ∧
        s.agenda = [.block 3, .agent (.periphReportsMode 0#3)] ∧ 0#3 = trunc3 0#8) ∧
    (let s : State := { inMode 4#3 with agenda := [.block 3, .agent (.periphReportsMode 7#3)] };
      SeqIdle s ∧ legalTarget 2#8 = true ∧ ¬ ModeIs (trunc3 2#8) s ∧ PortWaits s ∧
        s.agenda = [.block 3, .agent (.periphReportsMode 7#3)] ∧ 7#3 ≠ trunc3 2#8) :=
  ⟨⟨rfl, by decide, by decide, port_waits_init _ rfl, rfl, by decide⟩,
    ⟨rfl, by decide, by decide, port_waits_empty _ rfl, rfl, by decide⟩⟩

theorem witness_SetmodeFinishesExactlyWhenAReadReturnsTheTarget :
    ({ inMode 1#3 with seq := .setmode 1#8 .s0 } : State).seq = .setmode 1#8 .s0 ∧
    (microStep { inMode 1#3 with seq := .setmode 1#8 .s0 }).seq = .idle ∧
    (microStep { inMode 1#3 with seq := .setmode 1#8 .s3 }).seq = .idle ∧
    (microStep { inMode 0#3 with seq := .setmode 1#8 .s3 }).seq = .setmode 1#8 .s1 := by decide

theorem witness_SetmodeIsRefusedExactlyAtReservedTargets : SeqIdle ready ∧
    ((3#8).toNat % 8 = 3 ∧ (0xFD#8).toNat % 8 = 5 ∧ (6#8).toNat % 8 = 6 ∧ (0xFF#8).toNat % 8 = 7) ∧
    ((0#8).toNat % 8 = 0 ∧ (0xF9#8).toNat % 8 = 1 ∧ (2#8).toNat % 8 = 2 ∧ (0xFC#8).toNat % 8 = 4) := by decide

theorem witness_SetmodeNeverFinishesWithoutAReport :
    let s : State := { inMode 0#3 with seq := .setmode 1#8 .s1 }
    s.seq = .setmode 1#8 .s1 ∧ Undisturbed s ∧ ¬ ModeIs (trunc3 1#8) s := by decide

/-- From a state that a step leaves as it is, a run stays there. -/
theorem runsTo_still {x : State} (h : step x = .next x) (k : Nat) : RunsTo k x x := by
  induction k with
  | zero => rfl
  | succ k ih => simp only [RunsTo, Host.Core.run, core, h]; exact ih

/-- SETMODE(SLEEP) at S1, the peripheral reporting SLEEP after the block's next two micro-steps. -/
def reporting : State :=
  { inMode 4#3 with
    seq := .setmode 1#8 .s1, bank := { (inMode 4#3).bank with modeReq := 2#3 }
    agenda := [.block 2, .agent (.periphReportsMode 1#3)] }

/-- R192's premise, and the one on the agenda with reports before the last. -/
theorem witness_SetmodeFinishesIfThePeripheralReports :
    (reporting.seq = .setmode 1#8 .s1 ∧ PeriphEventuallyReports 1#8 reporting) ∧
    (let s : State := { inMode 0#3 with
        seq := .setmode 1#8 .s0, agenda := [.block 5, .agent (.periphReportsMode 3#3), .agent (.periphReportsMode 1#3)] };
      s.seq = .setmode 1#8 .s0 ∧ PeriphSettlesOn (trunc3 1#8) s) := by
  refine ⟨⟨rfl, ?_⟩, by decide⟩
  obtain ⟨x1, h1⟩ : ∃ x, step reporting = .next x := ⟨_, rfl⟩
  obtain ⟨x2, h2⟩ : ∃ x, step x1 = .next x := by cases h1; exact ⟨_, rfl⟩
  obtain ⟨x3, h3⟩ : ∃ x, step x2 = .next x := by cases h1; cases h2; exact ⟨_, rfl⟩
  have h4 : step x3 = .next x3 := by cases h1; cases h2; cases h3; rfl
  have hread : ReadReturnsTarget 1#8 x2 := by
    cases h1; cases h2
    exact ⟨⟨fun _ _ h => (by cases h), rfl⟩, 0, by decide, .inr rfl, by decide⟩
  intro k u l hk hu hreq
  match k with
  | 0 => cases hk; exact absurd hreq (by decide)
  | 1 =>
    simp only [RunsTo, Host.Core.run, core, h1] at hk; cases hk
    exact ⟨1, x2, by simp only [RunsTo, Host.Core.run, core, h2], hread⟩
  | 2 =>
    simp only [RunsTo, Host.Core.run, core, h1, h2] at hk; cases hk
    exact ⟨0, x2, rfl, hread⟩
  | k + 3 =>
    have hx : RunsTo k x3 u := by simpa only [RunsTo, Host.Core.run, core, h1, h2, h3] using hk
    have hu3 : Host.Outcome.next x3 = .next u := (runsTo_still h4 k).symm.trans hx
    cases hu3
    cases h1; cases h2; cases h3
    cases hu

/-- The command in progress, with the read still to come. -/
theorem witness_SetmodeTerminatesExactlyIfAReadReturnsTheTarget :
    reporting.seq = .setmode 1#8 .s1 ∧ (∃ k u, RunsTo k reporting u ∧ ReadReturnsTarget 1#8 u) ∧
    ∃ k t, RunsTo k reporting t ∧ t.seq = .idle :=
  ⟨rfl, ⟨2, _, rfl, ⟨⟨fun _ _ h => (by cases h), rfl⟩, 0, by decide, .inr rfl, by decide⟩⟩, ⟨3, _, rfl, rfl⟩⟩

/-- Bank 0 (`FSC` = 0), bank 1 at both ends of its range (`FSC` = 1 and 254), and a turn that stops at each end. -/
theorem witness_FstrictConfiguresTheNextBank :
    (SeqIdle ready ∧ InitDone ready ∧ ready.fsc ≠ 255#8 ∧ Undisturbed ready) ∧
    (SeqIdle (counted 1#8) ∧ InitDone (counted 1#8) ∧ (counted 1#8).fsc ≠ 255#8 ∧ Undisturbed (counted 1#8)) ∧
    (SeqIdle (counted 254#8) ∧ InitDone (counted 254#8) ∧ (counted 254#8).fsc ≠ 255#8) ∧
    (SeqIdle (granted 8) ∧ InitDone (granted 8) ∧ (granted 8).fsc ≠ 255#8 ∧ (granted 8).agenda = .block 8 :: []) := by decide

theorem witness_FfirstLoosensTheSharedMask :
    (SeqIdle ready ∧ InitDone ready ∧ ready.fsc ≠ 255#8 ∧ Undisturbed ready) ∧
    (SeqIdle (counted 254#8) ∧ InitDone (counted 254#8) ∧ (counted 254#8).fsc ≠ 255#8 ∧ Undisturbed (counted 254#8)) ∧
    (SeqIdle (granted 9) ∧ InitDone (granted 9) ∧ (granted 9).fsc ≠ 255#8 ∧ (granted 9).agenda = .block 9 :: []) := by decide

theorem witness_FilterCallsAreRefusedExactlyWhenTheCounterCannotServe :
    (SeqIdle State.reset ∧ ¬ InitDone State.reset) ∧
    (SeqIdle (counted 255#8) ∧ InitDone (counted 255#8) ∧ (counted 255#8).fsc = 255#8) ∧
    (SeqIdle (counted 254#8) ∧ InitDone (counted 254#8) ∧ (counted 254#8).fsc ≠ 255#8) := by decide

/-- No call, one call, two calls of the two kinds, 255 calls. -/
theorem witness_FilterCallsSinceInit : SeqIdle ready ∧ Undisturbed ready ∧
    (List.nil : List (Bool × Byte × Byte)).length < 2 ∧
    [(true, 0x80#8, 2#8)].head? = some (true, 0x80#8, 2#8) ∧
    (2 ≤ [(false, 0x12#8, 1#8), (true, 0x80#8, 2#8)].length ∧
      [(false, 0x12#8, 1#8), (true, 0x80#8, 2#8)].getLast? = some (true, 0x80#8, 2#8)) ∧
    (List.replicate 255 (false, 0x12#8, 1#8)).length ≤ 255 :=
  ⟨by decide, by decide, by decide, by decide, by decide, Nat.le_of_eq List.length_replicate⟩

theorem witness_StrictMaskAcceptsOneStandardIdentifier :
    filterBank (filters 0xFF#8 0xE8#8) .zero = ⟨idHigh 0x12#8 1#8, idLow 0x12#8, 1#1⟩ ∧
    (filters 0xFF#8 0xE8#8).maskH = strictMaskH ∧ (filters 0xFF#8 0xE8#8).maskL = strictMaskL params := by decide

theorem witness_SubrangeMaskAcceptsAHalfRange :
    filterBank (filters 0xF0#8 0x00#8) .one = ⟨idHigh 0x80#8 2#8, idLow 0x80#8, 1#1⟩ ∧
    (filters 0xF0#8 0x00#8).maskH = 0xF0#8 ∧ (filters 0xF0#8 0x00#8).maskL = 0x00#8 := by decide

theorem witness_AwaitIsCompleteWhenNothingIsPending :
    let s : State := { ready with bank := { ready.bank with txerr := 1#1 } }
    SeqIdle s ∧ Undisturbed s ∧ TxIdle s := by decide

theorem witness_OneIterationOfTheWait :
    let waiting (req err : BitVec 1) : State :=
      { ready with seq := .await .a0, bank := { ready.bank with txreq := req, txerr := err } }
    ((waiting 1#1 1#1).seq = .await .a0 ∧ (waiting 1#1 1#1).bank.txreq = 1#1 ∧ (waiting 1#1 1#1).bank.txerr = 1#1) ∧
    ((waiting 1#1 0#1).seq = .await .a0 ∧ (waiting 1#1 0#1).bank.txreq = 1#1 ∧ (waiting 1#1 0#1).bank.txerr = 0#1) ∧
    ((waiting 0#1 1#1).seq = .await .a0 ∧ (waiting 0#1 1#1).bank.txreq = 0#1) := by decide

/-- One state for each of the four clauses, at A0 with `TXREQ` = 0. -/
theorem witness_WaitEndsExactlyWhenTxreqReadsZero :
    (microStep { ready with seq := .await .a0 }).seq = .idle ∧
    (microStep { ready with seq := .send message3 (.wait .a0) }).seq = .send message3 .s1 ∧
    (microStep { ready with seq := .sendsync message3 (.send (.wait .a0)) }).seq = .sendsync message3 (.send .s1) ∧
    (microStep { ready with seq := .sendsync message3 (.wait .a0) }).seq = .idle := by decide

theorem witness_AwaitNeverFinishesWhileTxreqStays :
    let s : State := { sending with seq := .await .a1 }
    s.seq = .await .a1 ∧ Undisturbed s ∧ s.bank.txreq = 1#1 := by decide

/-- SENDSYNC waiting for the previous message, the peripheral clearing `TXREQ` for that one and for this one. -/
def clearing : State :=
  { sending with
    seq := .sendsync message3 (.send (.wait .a1)), agenda := [.agent .periphClearsTxreq, .block 20, .agent .periphClearsTxreq] }

/-- R192's premise with SENDSYNC, whose two waits each need a clear; the other premise with AWAIT and with SEND. -/
theorem witness_AwaitFinishesIfThePeripheralClears :
    (commandOf clearing.seq = some (.sendsync message3) ∧ PeriphEventuallyClearsTxreq clearing) ∧
    (let s : State := { sending with seq := .await .a1, agenda := [.block 7, .agent .periphClearsTxreq, .block 0] };
      commandOf s.seq = some .await ∧ PeriphStillClears s ∧ ∀ m, commandOf s.seq ≠ some (.sendsync m)) ∧
    (let s : State := { sending with seq := .send message3 .s0, agenda := [.block 7, .agent .periphClearsTxreq, .block 0] };
      commandOf s.seq = some (.send message3) ∧ PeriphStillClears s ∧ ∀ m, commandOf s.seq ≠ some (.sendsync m)) := by
  refine ⟨⟨rfl, ?_⟩, ⟨rfl, List.mem_cons_of_mem _ List.mem_cons_self, fun _ h => (by cases h)⟩,
    ⟨rfl, List.mem_cons_of_mem _ List.mem_cons_self, fun _ h => (by cases h)⟩⟩
  obtain ⟨x1, h1⟩ : ∃ x, step clearing = .next x := ⟨_, rfl⟩
  obtain ⟨x2, h2⟩ : ∃ x, step x1 = .next x := by cases h1; exact ⟨_, rfl⟩
  obtain ⟨x3, h3⟩ : ∃ x, step x2 = .next x := by cases h1; cases h2; exact ⟨_, rfl⟩
  obtain ⟨x4, h4⟩ : ∃ x, step x3 = .next x := by cases h1; cases h2; cases h3; exact ⟨_, rfl⟩
  have h5 : step x4 = .next x4 := by cases h1; cases h2; cases h3; cases h4; rfl
  intro k u hk hu
  match k with
  | 0 => cases hk; exact ⟨0, _, _, rfl, rfl⟩
  | 1 =>
    simp only [RunsTo, Host.Core.run, core, h1] at hk; cases hk; cases h1
    exact absurd hu (by decide)
  | 2 =>
    simp only [RunsTo, Host.Core.run, core, h1, h2] at hk; cases hk; cases h1; cases h2
    exact ⟨0, _, _, rfl, rfl⟩
  | 3 =>
    simp only [RunsTo, Host.Core.run, core, h1, h2, h3] at hk; cases hk; cases h1; cases h2; cases h3
    exact absurd hu (by decide)
  | k + 4 =>
    have hx : RunsTo k x4 u := by simpa only [RunsTo, Host.Core.run, core, h1, h2, h3, h4] using hk
    have hu4 : Host.Outcome.next x4 = .next u := (runsTo_still h5 k).symm.trans hx
    cases hu4
    cases h1; cases h2; cases h3; cases h4
    exact absurd hu (by decide)

/-- Lengths 0 and 8; undisturbed, and turns that stop in the middle of the data and at the end. -/
theorem witness_SendHandsTheMessageOver :
    (SeqIdle ready ∧ TxIdle ready ∧ Undisturbed ready ∧ (messageOfLength 0#4).dataLength.toNat ≤ 8 ∧
      (messageOfLength 8#4).dataLength.toNat ≤ 8) ∧
    (SeqIdle (granted 6) ∧ TxIdle (granted 6) ∧ (granted 6).agenda = .block 6 :: []) ∧
    (SeqIdle (granted 14) ∧ TxIdle (granted 14) ∧ (granted 14).agenda = .block 14 :: []) := by decide

theorem witness_SendWaitsForThePreviousMessage : SeqIdle sending ∧ Undisturbed sending ∧ sending.bank.txreq = 1#1 ∧
    (messageOfLength 8#4).dataLength.toNat ≤ 8 := by decide

/-- SEND at A0 and at A1 with `TXERR` = 1, SENDSYNC at A2; lengths 0 and 8. -/
theorem witness_SendAfterItsWaitHandsTheMessageOver :
    (let s : State := { ready with seq := .send (messageOfLength 0#4) (.wait .a0) };
      Undisturbed s ∧ TxIdle s ∧ PortWaits s ∧ (messageOfLength 0#4).dataLength.toNat ≤ 8 ∧
        s.seq = .send (messageOfLength 0#4) (.wait .a0)) ∧
    (let s : State := { ready with
        seq := .send (messageOfLength 8#4) (.wait .a1), port := [0x5#88], bank := { ready.bank with txerr := 1#1 } };
      Undisturbed s ∧ TxIdle s ∧ PortWaits s ∧ (messageOfLength 8#4).dataLength.toNat ≤ 8 ∧
        s.seq = .send (messageOfLength 8#4) (.wait .a1)) ∧
    (let s : State := { ready with seq := .sendsync (messageOfLength 8#4) (.send (.wait .a2)) };
      Undisturbed s ∧ TxIdle s ∧ PortWaits s ∧ (messageOfLength 8#4).dataLength.toNat ≤ 8 ∧
        s.seq = .sendsync (messageOfLength 8#4) (.send (.wait .a2))) :=
  ⟨⟨rfl, rfl, port_waits_empty _ rfl, by decide, rfl⟩, ⟨rfl, rfl, port_waits_init _ rfl, by decide, rfl⟩,
    ⟨rfl, rfl, port_waits_empty _ rfl, by decide, rfl⟩⟩

theorem witness_SendIsRefusedExactlyAboveEightBytes : SeqIdle ready ∧ 8 < (messageOfLength 9#4).dataLength.toNat ∧
    8 < (messageOfLength 15#4).dataLength.toNat ∧ (messageOfLength 8#4).dataLength.toNat ≤ 8 ∧
    (messageOfLength 0#4).dataLength.toNat ≤ 8 := by decide

theorem witness_SendsyncCompletesWhenThePeripheralClears : SeqIdle ready ∧ Undisturbed ready ∧ TxIdle ready ∧ PortWaits ready ∧
    (messageOfLength 8#4).dataLength.toNat ≤ 8 ∧ (messageOfLength 0#4).dataLength.toNat ≤ 8 :=
  ⟨rfl, rfl, rfl, port_waits_empty _ rfl, by decide, by decide⟩

theorem witness_ThePeripheralReadsTheMessageSent : SeqIdle ready ∧ Undisturbed ready ∧ TxIdle ready ∧
    message3.dataLength.toNat ≤ 8 := by decide

theorem witness_StatusWrittenDuringSendStands :
    let s : State := { ready with agenda := [.block 1, .agent (.hostWritesCode .ok)], port := [0x5#88] };
    SeqIdle s ∧ TxIdle s ∧ PortWaits s ∧ message3.dataLength.toNat ≤ 8 ∧ s.agenda = [.block 1, .agent (.hostWritesCode .ok)] :=
  ⟨rfl, rfl, port_waits_init _ rfl, by decide, rfl⟩

/-- A SEND that waits for the previous message, and the peripheral's own clear. -/
theorem witness_TransmitBufferIsSafeWhileThePeripheralOwnsIt :
    let s : State := { sending with seq := .send message3 (.wait .a0) }
    let u : State := { sending with seq := .send message3 (.wait .a0), agenda := [.agent .periphClearsTxreq] }
    (Inv s ∧ s.bank.txreq = 1#1 ∧ ¬ HostWritesDirectly s ∧ ∃ t, step s = .next t) ∧
    (Inv u ∧ u.bank.txreq = 1#1 ∧ ¬ HostWritesDirectly u ∧ ∃ t, step u = .next t) :=
  ⟨⟨⟨by decide, by decide⟩, by decide, fun ⟨_, h⟩ => (by cases h.1), _, rfl⟩,
    ⟨⟨by decide, by decide⟩, by decide, fun ⟨_, h⟩ => (by cases h.1), _, rfl⟩⟩

/-- At IDLE, in the middle of the data copy of a SEND, and at FSTRICT's `S4` with the counter at its last value. -/
theorem witness_EveryStepKeepsTheInvariant :
    let s : State := { ready with seq := .send message3 (.s4 2) }
    let u : State := { counted 254#8 with seq := .fstrict 0x12#8 1#8 (.s4 254#8) }
    (Inv ready ∧ SeqIdle ready) ∧ (Inv s ∧ (∃ t, step s = .next t) ∧ BankInv s ∧ ¬ HostWritesDirectly s) ∧
    (Inv u ∧ (∃ t, step u = .next t) ∧ BankInv u ∧ ¬ HostWritesDirectly u) :=
  ⟨⟨⟨by decide, by decide⟩, rfl⟩, ⟨⟨by decide, by decide⟩, ⟨_, rfl⟩, by decide, fun ⟨_, h⟩ => (by cases h.1)⟩,
    ⟨⟨by decide, by decide⟩, ⟨_, rfl⟩, by decide, fun ⟨_, h⟩ => (by cases h.1)⟩⟩

/-- The host's write of OK, and a step that leaves an ERROR that was there. -/
theorem witness_OnlyTheHostWritesOkOrError :
    (∃ t, step { sending with agenda := [.agent (.hostWritesCode .ok)] } = .next t ∧ t.tsCode = .ok) ∧
    (∃ t, step { ready with tsCode := .error } = .next t ∧ t.tsCode = .error) :=
  ⟨⟨_, rfl, by decide⟩, ⟨_, rfl, by decide⟩⟩

/-- INIT from a state in which every enable is set, and the host's turn with a 0 for a bank's, which does nothing, and for `RXIE0`. -/
theorem witness_EnablesAreNeverCleared :
    let b : Bank := { filters 0xFF#8 0xE8#8 with rxie0 := 1#1, driveEn := 1#1 }
    let s : State := { ready with port := [0x5#88], bank := b }
    let clears (r : Reg) : State := { ready with agenda := [.agent (.hostWritesRegister r 0#8)], bank := b }
    ((∃ t, step s = .next t) ∧ (filterBank s.bank .zero).en = 1#1 ∧ (filterBank s.bank .one).en = 1#1 ∧
      s.bank.rxie0 = 1#1 ∧ s.bank.driveEn = 1#1) ∧
    (∃ t, step (clears (.filtEn .zero)) = .next t ∧ (filterBank t.bank .zero).en = 1#1) ∧
    (∃ t, step (clears .rxie0) = .next t ∧ t.bank.rxie0 = 0#1) :=
  ⟨⟨⟨_, rfl⟩, by decide, by decide, by decide, by decide⟩, ⟨_, rfl, by decide⟩, ⟨_, rfl, by decide⟩⟩

/-- Steps of the block that set `TXREQ`, write `FSC` and set a pin; of the peripheral that write `TXERR` and clear `TXREQ`; of the host that
write the status, the timestamp, a pin, `MODE_REQ` and `TXREQ` to 0. -/
theorem witness_EveryFieldHasItsOwner :
    (∃ t, step { ready with port := [0x12A#88] } = .next t ∧ t.bank.txreq = 1#1) ∧
    (∃ t, step { ready with port := [0x1127#88] } = .next t ∧ t.fsc = 1#8) ∧
    (∃ t, step { ready with port := [0x5#88] } = .next t ∧ (pins t.bank .primary).tx = .output) ∧
    (∃ t, step { ready with agenda := [.agent (.periphSetsTxerr 1#1)] } = .next t ∧ t.bank.txerr = 1#1) ∧
    (∃ t, step { sending with agenda := [.agent .periphClearsTxreq] } = .next t ∧ t.bank.txreq = 0#1) ∧
    (∃ t, step { sending with agenda := [.agent (.hostWritesCode .error)] } = .next t ∧ t.tsCode = .error) ∧
    (∃ t, step { ready with agenda := [.agent (.hostWritesTimestamp 70000)] } = .next t ∧ t.timestamp = 4464) ∧
    (∃ t, step { ready with agenda := [.agent (.hostSetsDirTx .alternate .output)] } = .next t ∧
      (pins t.bank .alternate).tx = .output) ∧
    (∃ t, step { ready with agenda := [.agent (.hostWritesRegister .modeReq 2#8)] } = .next t ∧ t.bank.modeReq = 2#3) ∧
    (∃ t, step { sending with agenda := [.agent (.hostWritesRegister .txreq 0#8)] } = .next t ∧ t.bank.txreq = 0#1) :=
  ⟨⟨_, rfl, by decide⟩, ⟨_, rfl, by decide⟩, ⟨_, rfl, by decide⟩, ⟨_, rfl, by decide⟩, ⟨_, rfl, by decide⟩, ⟨_, rfl, by decide⟩,
    ⟨_, rfl, by decide⟩, ⟨_, rfl, by decide⟩, ⟨_, rfl, by decide⟩, ⟨_, rfl, by decide⟩⟩

/-- At IDLE and with a command in progress; a write of an enable with 1 and with 0, of `TXREQ` with 0 and with 1, of another field; a
pure and a stateful evaluation; a state that direct writes reach. -/
theorem witness_HostTakesOnlyItsLiberties :
    SeqIdle ready ∧
    ({ ready with seq := .await .a0 } : State).seq ≠ .idle ∧
    (∀ n, Reg.filtEn .one = .filtEn n → (0xFF#8 : Byte).toNat % 2 = 1) ∧ (Reg.filtEn .one = .txreq → (0xFF#8 : Byte).toNat % 2 = 0) ∧
    (∀ n, Reg.txreq = .filtEn n → (0xFE#8 : Byte).toNat % 2 = 1) ∧ (Reg.txreq = .txreq → (0xFE#8 : Byte).toNat % 2 = 0) ∧
    (Reg.txreq = .txreq ∧ (1#8 : Byte).toNat % 2 = 1) ∧
    ((∃ n, Reg.filtEn .one = .filtEn n) ∧ (0xFE#8 : Byte).toNat % 2 = 0) ∧
    (∃ res, exec (.pdecop 0xA3#8) ready = .next { ready with resultPort := some res }) ∧ (Instr.pdecop 0xA3#8).isPure = true ∧
    Instr.await.isPure = false ∧
    (let t : State := { ready with tsCode := .ok, timestamp := 65535, fsc := 9#8, bank := filters 1#8 2#8 };
      t = { ready with tsCode := t.tsCode, timestamp := t.timestamp, fsc := t.fsc, bank := t.bank } ∧
      t.timestamp < 2 ^ ready.params.timestampWidth) :=
  ⟨rfl, by decide, fun _ _ => by decide, fun h => (by cases h), fun _ h => (by cases h), fun _ => by decide, ⟨rfl, by decide⟩,
    ⟨⟨_, rfl⟩, by decide⟩, ⟨_, rfl⟩, rfl, rfl, rfl, by decide⟩

/-- A stateful command and a pure one at a block that hangs in AWAIT. -/
theorem witness_BusyBlockAcceptsNoStatefulCommand :
    let s : State := { sending with seq := .await .a0, port := [0x5#88] }
    let u : State := { sending with seq := .await .a0, port := [0xA33#88] }
    ((Instr.init .primary).isPure = false ∧ s.seq ≠ .idle) ∧ (PortWaits s ∧ ∃ t, step s = .next t) ∧
    (u.seq ≠ .idle ∧ (∀ a later, u.agenda ≠ .agent a :: later) ∧ u.port = 0xA33#88 :: [] ∧
      decode 0xA33#88 = .ok (.pdecop 0xA3#8) ∧ (Instr.pdecop 0xA3#8).isPure = true) :=
  ⟨by decide, ⟨port_waits_init _ rfl, _, rfl⟩, by decide, fun _ _ h => (by cases h), rfl, by decide, rfl⟩

theorem witness_NothingHappensWithoutACommand : SeqIdle ready ∧ Undisturbed ready ∧ ready.port = [] := by decide

theorem witness_RegisterWritesChangeOneField : Reg.filtH .zero ≠ Reg.filtH .one ∧ Reg.txdlc ≠ Reg.txd 7 := by decide

/-- Each command started, and each in the middle. -/
theorem witness_FramesOfBaudSetmodeAndAwait :
    (∃ t, Works (.baud 125#16 40#16) ready t) ∧ (∃ t, Works (.setmode 4#8) (granted 3) t) ∧
    (∃ t, Works .await { sending with seq := .await .a1 } t) :=
  ⟨⟨_, .inl rfl⟩, ⟨_, .inl rfl⟩, ⟨_, .inr ⟨rfl, rfl⟩⟩⟩

/-- Both commands, started and in the middle, and each clause on the banks. -/
theorem witness_FrameOfTheFilterCalls :
    ((∃ t, Works (.fstrict 0x12#8 1#8) ready t) ∧ seqOk ready = true ∧ ready.fsc = 0#8) ∧
    (let s : State := { counted 1#8 with seq := .ffirst 0x80#8 2#8 (.strict (.s2 1#8)) };
      (∃ t, Works (.ffirst 0x80#8 2#8) s t) ∧ seqOk s = true ∧ s.fsc ≠ 0#8) ∧
    (let s : State := { counted 1#8 with seq := .fstrict 0x12#8 1#8 .s5 };
      (∃ t, Works (.fstrict 0x12#8 1#8) s t) ∧ seqOk s = true ∧ pastBankWrites s.seq = true) ∧
    (let s : State := { counted 2#8 with seq := .ffirst 0x80#8 2#8 .s9 };
      (∃ t, Works (.ffirst 0x80#8 2#8) s t) ∧ seqOk s = true ∧ pastBankWrites s.seq = true) :=
  ⟨⟨⟨_, .inl rfl⟩, by decide, rfl⟩, ⟨⟨_, .inr ⟨rfl, rfl⟩⟩, by decide, by decide⟩, ⟨⟨_, .inr ⟨rfl, rfl⟩⟩, by decide, by decide⟩,
    ⟨⟨_, .inr ⟨rfl, rfl⟩⟩, by decide, by decide⟩⟩

/-- Both commands; in the middle of the data copy of three bytes, with registers 3 to 7 above the length. -/
theorem witness_FrameOfSendAndSendsync :
    (∃ t, Works (.send message3) { ready with seq := .send message3 (.s4 1) } t) ∧
    seqOk { ready with seq := .send message3 (.s4 1) } = true ∧ message3.dataLength.toNat ≤ (3 : Fin 8).val ∧
    (∃ t, Works (.sendsync message3) ready t) :=
  ⟨⟨_, .inr ⟨rfl, rfl⟩⟩, by decide, by decide, ⟨_, .inl rfl⟩⟩

end Sys2Proof.Tests
end

section
/-! SUPPORT. The register bank by register name: what a write of one register, or of a pin pair, lets be read of another (R43),
and the fields of one bit. -/

namespace Sys2Proof.Machine

/-- A write of one register changes no other (R43). -/
theorem regRead_regWrite_other (b : Bank) {r q : Reg} (v : Byte) (h : q ≠ r) :
    regRead (regWrite b r v) q = regRead b q := by
  cases r with
  | txd i =>
    cases q with
    | txd j =>
      have hij : i.val ≠ j.val := fun e => h (by rw [Fin.ext e])
      exact Vector.getElem_set_ne i.isLt j.isLt hij
    | _ => rfl
  | filtH n | filtL n | filtEn n =>
    cases q with
    | filtH m | filtL m | filtEn m =>
      cases n <;> cases m <;> simp_all [regRead, regWrite, setFilterBank, filterBank]
    | _ => cases n <;> rfl
  | _ => cases q <;> simp_all [regRead, regWrite] <;> rfl

/-- A field of one bit reads 1 after 1 was written to it. -/
theorem regRead_regWrite_one (b : Bank) {r : Reg} (hr : regWidth r = 1) : regRead (regWrite b r 1#8) r = 1#8 := by
  apply BitVec.eq_of_toNat_eq
  rw [regRead_regWrite_same, hr]
  rfl

/-- The pin direction fields are none of the numeric registers. -/
theorem regRead_setPins (b : Bank) (r : Routing) (p : PinPair) (q : Reg) : regRead (setPins b r p) q = regRead b q := by
  cases r <;> cases q <;> rfl

theorem writeDirTx_tx_other (b : Bank) {r q : Routing} (d : Direction) (h : q ≠ r) :
    (pins (writeDirTx b r d) q).tx = (pins b q).tx := by
  rw [writeDirTx, pins_setPins_other b _ h]

theorem writeDirRx_rx_other (b : Bank) {r q : Routing} (d : Direction) (h : q ≠ r) :
    (pins (writeDirRx b r d) q).rx = (pins b q).rx := by
  rw [writeDirRx, pins_setPins_other b _ h]

theorem writeDirTx_rx (b : Bank) (r q : Routing) (d : Direction) : (pins (writeDirTx b r d) q).rx = (pins b q).rx := by
  by_cases h : q = r
  · rw [h, writeDirTx, pins_setPins_same]
  · rw [writeDirTx, pins_setPins_other b _ h]

theorem writeDirRx_tx (b : Bank) (r q : Routing) (d : Direction) : (pins (writeDirRx b r d) q).tx = (pins b q).tx := by
  by_cases h : q = r
  · rw [h, writeDirRx, pins_setPins_same]
  · rw [writeDirRx, pins_setPins_other b _ h]

/-- A field of one bit reads as 1, among the bytes, exactly if it is 1. -/
theorem setWidth_eq_one_iff (v : BitVec 1) : v.setWidth 8 = 1#8 ↔ v = 1#1 := by
  revert v
  decide

end Sys2Proof.Machine
end

section
/-! SUPPORT. What the work of one command can change, as a relation of two states (`OwnChanges`): the rule of every update the
micro-steps are made of, then every micro-step, the block's turn and the execution of a command. -/

namespace Sys2Proof.Machine

/-- FSTRICT or FFIRST. -/
abbrev IsFilterCall (i : Instr) : Prop := ∃ nodeID messageType, i = .fstrict nodeID messageType ∨ i = .ffirst nodeID messageType

/-- SEND or SENDSYNC. -/
abbrev IsTransmit (i : Instr) : Prop := ∃ m, i = .send m ∨ i = .sendsync m

/-- From `s` to `t` only what the command `i` owns has changed (10_state.md), and no field of one bit went from 1 to 0. SEQ, the
ports and the agenda are free. -/
structure OwnChanges (i : Instr) (s t : State) : Prop where
  params : t.params = s.params
  timestamp : t.timestamp = s.timestamp
  fsc : t.fsc = s.fsc ∨ (∃ r, i = .init r) ∨ IsFilterCall i
  initDone : t.initDone = s.initDone ∨ ∃ r, i = .init r
  tsCode : t.tsCode = s.tsCode ∨ (t.tsCode = .nothingSent ∧ ∃ r, i = .init r) ∨ (t.tsCode = .sending ∧ IsTransmit i)
  regs : ∀ r, regRead t.bank r = regRead s.bank r ∨ blockWrites i r = true
  bits : ∀ r, regWidth r = 1 → regRead s.bank r = 1#8 → regRead t.bank r = 1#8
  pins : ∀ q, pins t.bank q = pins s.bank q ∨ i = .init q

/-- Two states that differ in SEQ, the ports and the agenda alone. -/
theorem OwnChanges.of_eq {i : Instr} {s t : State} (params : t.params = s.params) (timestamp : t.timestamp = s.timestamp)
    (fsc : t.fsc = s.fsc) (initDone : t.initDone = s.initDone) (tsCode : t.tsCode = s.tsCode) (bank : t.bank = s.bank) :
    OwnChanges i s t where
  params := params
  timestamp := timestamp
  fsc := .inl fsc
  initDone := .inl initDone
  tsCode := .inl tsCode
  regs := fun r => .inl (by rw [bank])
  bits := fun r _ h => by rw [bank, h]
  pins := fun q => .inl (by rw [bank])

theorem OwnChanges.refl (i : Instr) (s : State) : OwnChanges i s s := .of_eq rfl rfl rfl rfl rfl rfl

theorem OwnChanges.trans {i : Instr} {s t u : State} (h : OwnChanges i s t) (k : OwnChanges i t u) : OwnChanges i s u where
  params := k.params.trans h.params
  timestamp := k.timestamp.trans h.timestamp
  fsc := k.fsc.elim (fun e => e ▸ h.fsc) .inr
  initDone := k.initDone.elim (fun e => e ▸ h.initDone) .inr
  tsCode := k.tsCode.elim (fun e => e ▸ h.tsCode) .inr
  regs := fun r => (k.regs r).elim (fun e => e ▸ h.regs r) .inr
  bits := fun r hr hs => k.bits r hr (h.bits r hr hs)
  pins := fun q => (k.pins q).elim (fun e => e ▸ h.pins q) .inr

/-! ### The updates -/

section Updates
variable {i : Instr} (s : State)

theorem OwnChanges.goto {s t : State} (h : OwnChanges i s t) (q : Seq) : OwnChanges i s (t.goto q) :=
  h.trans (.of_eq rfl rfl rfl rfl rfl rfl)

/-- A command writes its registers, and to a field of one bit it writes 1 only. -/
theorem ownChanges_write {r : Reg} {v : Byte} (hr : blockWrites i r = true) (hv : regWidth r = 1 → v = 1#8) :
    OwnChanges i s (s.write r v) where
  params := rfl
  timestamp := rfl
  fsc := .inl rfl
  initDone := .inl rfl
  tsCode := .inl rfl
  regs := fun q => by
    by_cases h : q = r
    · exact .inr (h ▸ hr)
    · exact .inl (regRead_regWrite_other s.bank v h)
  bits := fun q hq hs => by
    by_cases h : q = r
    · subst h
      rw [hv hq]
      exact regRead_regWrite_one s.bank hq
    · exact (regRead_regWrite_other s.bank v h).trans hs
  pins := fun q => .inl (pins_regWrite s.bank r v q)

/-- A write of a register of more than one bit. -/
theorem ownChanges_writeWide {r : Reg} {v : Byte} (hr : blockWrites i r = true) (hw : regWidth r ≠ 1) :
    OwnChanges i s (s.write r v) :=
  ownChanges_write s hr fun h => absurd h hw

/-- A field of one bit is set. -/
theorem ownChanges_setBit {r : Reg} (hr : blockWrites i r = true) : OwnChanges i s (s.write r 1#8) :=
  ownChanges_write s hr fun _ => rfl

/-- INIT writes the pins of its routing. -/
theorem ownChanges_setPins (r : Routing) (p : PinPair) : OwnChanges (.init r) s (s.withBank (setPins s.bank r p)) where
  params := rfl
  timestamp := rfl
  fsc := .inl rfl
  initDone := .inl rfl
  tsCode := .inl rfl
  regs := fun q => .inl (regRead_setPins s.bank r p q)
  bits := fun q _ hs => (regRead_setPins s.bank r p q).trans hs
  pins := fun q => by
    by_cases h : q = r
    · exact .inr (h ▸ rfl)
    · exact .inl (pins_setPins_other s.bank p h)

theorem ownChanges_setCode {c : StatusCode} (h : (c = .nothingSent ∧ ∃ r, i = .init r) ∨ (c = .sending ∧ IsTransmit i)) :
    OwnChanges i s (s.setCode c) :=
  { OwnChanges.refl i s with tsCode := .inr h }

theorem ownChanges_setFsc (v : Byte) (h : IsFilterCall i) : OwnChanges i s (s.setFsc v) :=
  { OwnChanges.refl i s with fsc := .inr (.inr h) }

theorem ownChanges_initFsc (r : Routing) : OwnChanges (.init r) s s.initFsc :=
  { OwnChanges.refl (.init r) s with fsc := .inr (.inl ⟨r, rfl⟩), initDone := .inr ⟨r, rfl⟩ }

end Updates

/-! ### The micro-steps -/

section MicroSteps
variable (s : State)

theorem microBaud_ownChanges (bitrate clock : BitVec 16) (l : BaudLabel) :
    OwnChanges (.baud bitrate clock) s (microBaud bitrate clock l s) := by
  cases l with
  | s0 | s1 | s2 => exact (ownChanges_writeWide s rfl (by decide)).goto _

theorem microInit_ownChanges (r : Routing) (l : InitLabel) : OwnChanges (.init r) s (microInit r l s) := by
  cases l with
  | s0 | s1 => exact (ownChanges_setPins s r _).goto _
  | s2 => exact (ownChanges_setBit s rfl).goto _
  | s3 => exact (ownChanges_setCode s (.inl ⟨rfl, r, rfl⟩)).goto _
  | s4 => exact (ownChanges_initFsc s r).goto _

theorem microSetmode_ownChanges (target : Byte) (l : ModeLabel) :
    OwnChanges (.setmode target) s (microSetmode target l s) := by
  cases l with
  | s1 => exact (ownChanges_writeWide s rfl (by decide)).goto _
  | s0 | s2 | s3 => exact (OwnChanges.refl _ s).goto _

/-- Both filter calls write all the filter registers. -/
theorem blockWrites_of_isFilterCall {i : Instr} (hi : IsFilterCall i) (r : Reg) :
    blockWrites i r = blockWrites.filterRegister r := by
  obtain ⟨n, mt, rfl | rfl⟩ := hi <;> rfl

theorem microFilter_ownChanges {i : Instr} (hi : IsFilterCall i) (nodeID messageType : Byte) (l : FilterLabel) :
    OwnChanges i s (microFilter nodeID messageType l s).1 := by
  have hw := blockWrites_of_isFilterCall hi
  cases l with
  | s0 => exact .refl i s
  | s1 c | s2 c | s5 | s6 => exact ownChanges_writeWide s (hw _) (by simp [regWidth])
  | s3 c | s7 => exact ownChanges_setBit s (hw _)
  | s4 c => exact ownChanges_setFsc s _ hi

theorem microFstrict_ownChanges (nodeID messageType : Byte) (l : FilterLabel) :
    OwnChanges (.fstrict nodeID messageType) s (microFstrict nodeID messageType l s) := by
  have h := microFilter_ownChanges s ⟨nodeID, messageType, .inl rfl⟩ nodeID messageType l
  unfold microFstrict
  split <;> next e => rw [e] at h; exact h.goto _

theorem microFfirst_ownChanges (nodeID messageType : Byte) (l : FirstLabel) :
    OwnChanges (.ffirst nodeID messageType) s (microFfirst nodeID messageType l s) := by
  cases l with
  | strict l =>
    have h := microFilter_ownChanges s ⟨nodeID, messageType, .inr rfl⟩ nodeID messageType l
    simp only [microFfirst]
    split <;> next e => rw [e] at h; exact h.goto _
  | s8 | s9 => exact (ownChanges_writeWide s rfl (by decide)).goto _

theorem microWait_ownChanges {i : Instr} (hi : blockWrites i .abortReq = true) (l : AwaitLabel) :
    OwnChanges i s (microWait l s).1 := by
  cases l with
  | a0 | a1 => exact .refl i s
  | a2 => exact ownChanges_setBit s hi

theorem microAwait_ownChanges (l : AwaitLabel) : OwnChanges .await s (microAwait l s) := by
  have h := microWait_ownChanges s (i := .await) rfl l
  unfold microAwait
  split <;> next e => rw [e] at h; exact h.goto _

/-- SEND and SENDSYNC write all the transmit registers. -/
theorem blockWrites_of_isTransmit {i : Instr} (hi : IsTransmit i) (r : Reg) :
    blockWrites i r = blockWrites.transmitRegister r := by
  obtain ⟨m, rfl | rfl⟩ := hi <;> rfl

/-- SEND and SENDSYNC alone write `TXREQ` (R20). -/
theorem isTransmit_of_blockWrites_txreq {i : Instr} (h : blockWrites i .txreq = true) : IsTransmit i := by
  cases i with
  | send m => exact ⟨m, .inl rfl⟩
  | sendsync m => exact ⟨m, .inr rfl⟩
  | _ => cases h

theorem microMessage_ownChanges {i : Instr} (hi : IsTransmit i) (m : Message) (l : SendLabel) :
    OwnChanges i s (microMessage m l s).1 := by
  have hw := blockWrites_of_isTransmit hi
  cases l with
  | s0 => exact ownChanges_setCode s (.inr ⟨rfl, hi⟩)
  | wait l =>
    have h := microWait_ownChanges s (hw .abortReq) l
    simp only [microMessage]
    split <;> next e => rw [e] at h; exact h
  | s1 | s2 | s3 | s4 n => exact ownChanges_writeWide s (hw _) (by simp [regWidth])
  | s5 => exact ownChanges_setBit s (hw _)

theorem microSend_ownChanges (m : Message) (l : SendLabel) : OwnChanges (.send m) s (microSend m l s) := by
  have h := microMessage_ownChanges s ⟨m, .inl rfl⟩ m l
  unfold microSend
  split <;> next e => rw [e] at h; exact h.goto _

theorem microSendsync_ownChanges (m : Message) (l : SyncLabel) : OwnChanges (.sendsync m) s (microSendsync m l s) := by
  cases l with
  | send l =>
    have h := microMessage_ownChanges s ⟨m, .inr rfl⟩ m l
    simp only [microSendsync]
    split <;> next e => rw [e] at h; exact h.goto _
  | wait l =>
    have h := microWait_ownChanges s (i := .sendsync m) rfl l
    simp only [microSendsync]
    split <;> next e => rw [e] at h; exact h.goto _

/-- A micro-step changes only what the command in progress owns. -/
theorem microStep_ownChanges {i : Instr} (h : commandOf s.seq = some i) : OwnChanges i s (microStep s) := by
  unfold microStep
  split <;> rename_i e <;> rw [e] at h <;> cases h
  · exact microBaud_ownChanges s _ _ _
  · exact microInit_ownChanges s _ _
  · exact microSetmode_ownChanges s _ _
  · exact microFstrict_ownChanges s _ _ _
  · exact microFfirst_ownChanges s _ _ _
  · exact microAwait_ownChanges s _
  · exact microSend_ownChanges s _ _
  · exact microSendsync_ownChanges s _ _

/-- A micro-step goes on with the command in progress, or ends it at IDLE. -/
theorem microStep_command : (microStep s).seq = .idle ∨ commandOf (microStep s).seq = commandOf s.seq := by
  cases e : s.seq with
  | idle => exact .inl (by rw [microStep_idle e, e])
  | baud _ _ l | init _ l => cases l <;> simp [microStep, e, microBaud, microInit, commandOf]
  | setmode target l =>
    cases l with
    | s0 | s3 => by_cases h : modeReports target s <;> simp [microStep, e, microSetmode, h, commandOf]
    | s1 | s2 => simp [microStep, e, microSetmode, commandOf]
  | fstrict _ _ l => simp only [microStep, e, microFstrict]; split <;> simp [commandOf]
  | ffirst _ _ l =>
    cases l with
    | strict l => simp only [microStep, e, microFfirst]; split <;> simp [commandOf]
    | s8 | s9 => simp [microStep, e, microFfirst, commandOf]
  | await l => simp only [microStep, e, microAwait]; split <;> simp [commandOf]
  | send _ l => simp only [microStep, e, microSend]; split <;> simp [commandOf]
  | sendsync _ l => cases l <;> simp only [microStep, e, microSendsync] <;> split <;> simp [commandOf]

end MicroSteps

/-! ### The block's turn and the execution of a command -/

/-- SEQ holds no command exactly at IDLE. -/
theorem commandOf_eq_none {q : Seq} (h : commandOf q = none) : q = .idle := by
  cases q with
  | idle => rfl
  | _ => cases h

/-- What the block's turn changes belongs to the command in progress. -/
theorem blockTurn_ownChanges {i : Instr} {s : State} (h : commandOf s.seq = some i) : OwnChanges i s (blockTurn s) := by
  have hturn := blockTurn_induct
    (P := fun t => OwnChanges i s t ∧ (t.seq = .idle ∨ commandOf t.seq = some i))
    (fun t _ ⟨hc, hq⟩ => ⟨hc.trans (.of_eq rfl rfl rfl rfl rfl rfl), hq⟩)
    (fun t ⟨hc, hq⟩ => by
      rcases hq with hq | hq
      · rw [microStep_idle hq]; exact ⟨hc, .inl hq⟩
      · exact ⟨hc.trans (microStep_ownChanges t hq), hq ▸ microStep_command t⟩)
    s ⟨.refl i s, .inr h⟩
  exact hturn.1

/-- A stateful command is presented to the sequencer, which starts it at a label of its own. -/
theorem exec_stateful {i : Instr} (h : i.isPure = false) (s : State) :
    ∃ first refusal, commandOf first = some i ∧ exec i s = acceptCommand first refusal s := by
  cases i with
  | hdr2b | b2hdr | penc | pdecop => cases h
  | baud bitrate clock => exact ⟨.baud bitrate clock .s0, _, rfl, rfl⟩
  | init r => exact ⟨.init r .s0, none, rfl, rfl⟩
  | setmode target => exact ⟨.setmode target .s0, _, rfl, rfl⟩
  | fstrict n mt => exact ⟨.fstrict n mt .s0, _, rfl, rfl⟩
  | ffirst n mt => exact ⟨.ffirst n mt (.strict .s0), _, rfl, rfl⟩
  | await => exact ⟨.await .a0, none, rfl, rfl⟩
  | send m => exact ⟨.send m .s0, _, rfl, rfl⟩
  | sendsync m => exact ⟨.sendsync m (.send .s0), _, rfl, rfl⟩

/-- What a command's execution changes is its own, a pure one's nothing but the result port. -/
theorem exec_ownChanges {i : Instr} {s t : State} (h : exec i s = .next t) : OwnChanges i s t := by
  cases hp : i.isPure with
  | true =>
    obtain ⟨r, -, e⟩ := exec_pure hp s
    cases e.symm.trans h
    exact .of_eq rfl rfl rfl rfl rfl rfl
  | false =>
    obtain ⟨first, refusal, hfirst, e⟩ := exec_stateful hp s
    rw [e] at h
    rcases acceptCommand_cases first refusal s with ⟨-, ha⟩ | ⟨-, r, -, ha⟩ | ⟨-, -, ha⟩ <;> cases ha.symm.trans h
    · exact .refl i s
    · exact ((OwnChanges.refl i s).goto first).trans (blockTurn_ownChanges hfirst)

end Sys2Proof.Machine
end

section
/-! SUPPORT. What a turn of another agent changes, field by field. -/

namespace Sys2Proof.Machine

variable (a : Act) (s : State)

theorem perform_tsCode : (perform a s).tsCode = s.tsCode ∨ a = .hostWritesCode (perform a s).tsCode := by
  cases a with
  | hostWritesCode c => exact .inr rfl
  | hostSetsDirTx | hostSetsDirRx | hostWritesRegister => simp only [perform]; split <;> exact .inl rfl
  | _ => exact .inl rfl

theorem perform_timestamp : (perform a s).timestamp = s.timestamp ∨ ∃ v, a = .hostWritesTimestamp v := by
  cases a with
  | hostWritesTimestamp v => exact .inr ⟨v, rfl⟩
  | hostSetsDirTx | hostSetsDirRx | hostWritesRegister => simp only [perform]; split <;> exact .inl rfl
  | _ => exact .inl rfl

/-- A register is written by the peripheral's own step, or by the host's main line outside any command. -/
theorem perform_regRead (r : Reg) : regRead (perform a s).bank r = regRead s.bank r ∨ periphWrites a r = true ∨
    (s.seq = .idle ∧ ∃ v, a = .hostWritesRegister r v) := by
  have hwrite (q : Reg) (v : Byte) : regRead (s.write q v).bank r = regRead s.bank r ∨ r = q :=
    (em (r = q)).symm.imp_left (regRead_regWrite_other s.bank v)
  cases a with
  | periphClearsTxreq | periphSetsTxerr | periphClearsAbort | periphReportsMode =>
    exact (hwrite _ _).imp_right fun e => .inl (by simp [periphWrites, e])
  | hostSetsDirTx q d | hostSetsDirRx q d =>
    simp only [perform]
    split
    · exact .inl (regRead_setPins s.bank q _ r)
    · exact .inl rfl
  | hostWritesRegister q v =>
    simp only [perform]
    split
    · next h =>
      have hi : s.seq = .idle := (isIdle_iff s).1 (Bool.and_eq_true_iff.1 h).1
      exact (hwrite q v).imp_right fun e => .inr ⟨hi, v, by rw [e]⟩
    · exact .inl rfl
  | _ => exact .inl rfl

/-- A pin direction is written by the host's pin setup alone, outside any command (R32). -/
theorem perform_pins (q : Routing) :
    ((pins (perform a s).bank q).tx = (pins s.bank q).tx ∨ (s.seq = .idle ∧ ∃ d, a = .hostSetsDirTx q d)) ∧
    ((pins (perform a s).bank q).rx = (pins s.bank q).rx ∨ (s.seq = .idle ∧ ∃ d, a = .hostSetsDirRx q d)) := by
  cases a with
  | periphClearsTxreq | periphSetsTxerr | periphClearsAbort | periphReportsMode =>
    simp only [perform, State.write_bank, pins_regWrite, true_or, and_self]
  | hostSetsDirTx r d =>
    simp only [perform]
    split
    · next hi =>
      refine ⟨?_, .inl (writeDirTx_rx s.bank r q d)⟩
      by_cases h : q = r
      · exact .inr ⟨(isIdle_iff s).1 hi, d, by rw [h]⟩
      · exact .inl (writeDirTx_tx_other s.bank d h)
    · exact ⟨.inl rfl, .inl rfl⟩
  | hostSetsDirRx r d =>
    simp only [perform]
    split
    · next hi =>
      refine ⟨.inl (writeDirRx_tx s.bank r q d), ?_⟩
      by_cases h : q = r
      · exact .inr ⟨(isIdle_iff s).1 hi, d, by rw [h]⟩
      · exact .inl (writeDirRx_rx_other s.bank d h)
    · exact ⟨.inl rfl, .inl rfl⟩
  | hostWritesRegister r v =>
    simp only [perform]
    split
    · simp only [State.write_bank, pins_regWrite, true_or, and_self]
    · exact ⟨.inl rfl, .inl rfl⟩
  | _ => exact ⟨.inl rfl, .inl rfl⟩

/-- Only one turn of the peripheral clears `TXREQ` (R48), and only one `ABORT_REQ` (R50). -/
theorem periphWrites_txreq (h : periphWrites a .txreq = true) : a = .periphClearsTxreq := by
  cases a with
  | periphClearsTxreq => rfl
  | _ => cases h

theorem periphWrites_abortReq (h : periphWrites a .abortReq = true) : a = .periphClearsAbort := by
  cases a with
  | periphClearsAbort => rfl
  | _ => cases h

end Sys2Proof.Machine
end

section
/-! SUPPORT. Which agent a step belongs to, and the owners of each field (10_state.md), field by field. -/

namespace Sys2Proof.Machine

/-- The agent a step belongs to: another agent's turn; no agent's, which moves nothing but the agenda and the ports; or the block's
work at a command, which changes only what that command owns. -/
theorem step_agent_cases {s t : State} (h : step s = .next t) :
    (∃ a rest, AgentTurn a s ∧ t = perform a { s with agenda := rest }) ∨
    (∃ rest later res, t = { s with agenda := rest, port := later, resultPort := res }) ∨
    (∃ i, WorksAt i s ∧ OwnChanges i s t) := by
  rcases step_cases h with ⟨a, rest, ha, e⟩ | ⟨hno, ⟨-, rfl⟩ | ⟨w, rest, i, hp, hd, hi, he⟩⟩
  · exact .inl ⟨a, rest, ⟨rest, ha⟩, e⟩
  · cases hc : commandOf s.seq with
    | none =>
      obtain ⟨rest, e⟩ := blockTurn_idle (commandOf_eq_none hc)
      exact .inr (.inl ⟨rest, s.port, s.resultPort, e⟩)
    | some i => exact .inr (.inr ⟨i, ⟨fun a ⟨rest, e⟩ => hno a rest e, .inl hc⟩, blockTurn_ownChanges hc⟩)
  · rcases hi with hi | hi
    · have hown : OwnChanges i s { s with port := rest } := .of_eq rfl rfl rfl rfl rfl rfl
      exact .inr (.inr ⟨i, ⟨fun a ⟨rest, e⟩ => hno a rest e, .inr ⟨hi, w, rest, hp, hd⟩⟩, hown.trans (exec_ownChanges he)⟩)
    · obtain ⟨r, -, e⟩ := exec_pure hi { s with port := rest }
      cases e.symm.trans he
      exact .inr (.inl ⟨s.agenda, rest, some r, rfl⟩)

/-- What another agent's turn does to a register, as the owner it is. -/
theorem agentTurn_regRead {a : Act} {s : State} (ha : AgentTurn a s) (rest : List Turn) (r : Reg) :
    regRead (perform a { s with agenda := rest }).bank r = regRead s.bank r ∨
      (∃ a, AgentTurn a s ∧ periphWrites a r = true) ∨ HostWrites r s := by
  rcases perform_regRead a { s with agenda := rest } r with e | hp | ⟨hi, v, rfl⟩
  · exact .inl e
  · exact .inr (.inl ⟨a, ha, hp⟩)
  · exact .inr (.inr ⟨hi, v, ha⟩)

section Owners
variable {s t : State} (h : step s = .next t)
include h

theorem step_params : t.params = s.params := by
  rcases step_agent_cases h with ⟨a, rest, -, rfl⟩ | ⟨_, _, _, rfl⟩ | ⟨i, -, hc⟩
  · exact (perform_frame _ a).1
  · rfl
  · exact hc.params

theorem step_seq : t.seq = s.seq ∨ ∃ i, WorksAt i s := by
  rcases step_agent_cases h with ⟨a, rest, -, rfl⟩ | ⟨_, _, _, rfl⟩ | ⟨i, hw, -⟩
  · exact .inl (perform_frame _ a).2.1
  · exact .inl rfl
  · exact .inr ⟨i, hw⟩

/-- `FSC` is the block's alone (R16). -/
theorem step_fsc : t.fsc = s.fsc ∨ (∃ r, WorksAt (.init r) s) ∨
    (∃ n mt, WorksAt (.fstrict n mt) s ∨ WorksAt (.ffirst n mt) s) := by
  rcases step_agent_cases h with ⟨a, rest, -, rfl⟩ | ⟨_, _, _, rfl⟩ | ⟨i, hw, hc⟩
  · exact .inl (perform_fsc _ a)
  · exact .inl rfl
  · rcases hc.fsc with e | ⟨r, rfl⟩ | ⟨n, mt, rfl | rfl⟩
    · exact .inl e
    · exact .inr (.inl ⟨r, hw⟩)
    · exact .inr (.inr ⟨n, mt, .inl hw⟩)
    · exact .inr (.inr ⟨n, mt, .inr hw⟩)

theorem step_initDone : t.initDone = s.initDone ∨ ∃ r, WorksAt (.init r) s := by
  rcases step_agent_cases h with ⟨a, rest, -, rfl⟩ | ⟨_, _, _, rfl⟩ | ⟨i, hw, hc⟩
  · exact .inl (perform_frame _ a).2.2.1
  · exact .inl rfl
  · rcases hc.initDone with e | ⟨r, rfl⟩
    · exact .inl e
    · exact .inr ⟨r, hw⟩

/-- `TS.code`: the host writes any value, the block NOTHING_SENT in INIT and SENDING in SEND and SENDSYNC (R13, R14). -/
theorem step_tsCode : t.tsCode = s.tsCode ∨ AgentTurn (.hostWritesCode t.tsCode) s ∨
    (t.tsCode = .nothingSent ∧ ∃ r, WorksAt (.init r) s) ∨
    (t.tsCode = .sending ∧ ∃ m, WorksAt (.send m) s ∨ WorksAt (.sendsync m) s) := by
  rcases step_agent_cases h with ⟨a, rest, ha, rfl⟩ | ⟨_, _, _, rfl⟩ | ⟨i, hw, hc⟩
  · rcases perform_tsCode a { s with agenda := rest } with e | e
    · exact .inl e
    · exact .inr (.inl (e ▸ ha))
  · exact .inl rfl
  · rcases hc.tsCode with e | ⟨e, r, rfl⟩ | ⟨e, m, rfl | rfl⟩
    · exact .inl e
    · exact .inr (.inr (.inl ⟨e, r, hw⟩))
    · exact .inr (.inr (.inr ⟨e, m, .inl hw⟩))
    · exact .inr (.inr (.inr ⟨e, m, .inr hw⟩))

/-- `TS.timestamp` is the host's alone (R15). -/
theorem step_timestamp : t.timestamp = s.timestamp ∨ ∃ v, AgentTurn (.hostWritesTimestamp v) s := by
  rcases step_agent_cases h with ⟨a, rest, ha, rfl⟩ | ⟨_, _, _, rfl⟩ | ⟨i, -, hc⟩
  · exact (perform_timestamp a { s with agenda := rest }).imp_right fun ⟨v, e⟩ => ⟨v, e ▸ ha⟩
  · exact .inl rfl
  · exact .inl hc.timestamp

/-- A register or field of the bank: the commands that list it as written, the peripheral, or the host's main line (R17 to R33). -/
theorem step_regRead (r : Reg) : regRead t.bank r = regRead s.bank r ∨ (∃ i, WorksAt i s ∧ blockWrites i r = true) ∨
    (∃ a, AgentTurn a s ∧ periphWrites a r = true) ∨ HostWrites r s := by
  rcases step_agent_cases h with ⟨a, rest, ha, rfl⟩ | ⟨_, _, _, rfl⟩ | ⟨i, hw, hc⟩
  · exact (agentTurn_regRead ha rest r).imp_right .inr
  · exact .inl rfl
  · exact (hc.regs r).imp_right fun e => .inl ⟨i, hw, e⟩

/-- A pin direction: INIT of its routing, or the host's pin setup (R32). -/
theorem step_pins (q : Routing) :
    ((pins t.bank q).tx = (pins s.bank q).tx ∨ WorksAt (.init q) s ∨ (SeqIdle s ∧ ∃ d, AgentTurn (.hostSetsDirTx q d) s)) ∧
    ((pins t.bank q).rx = (pins s.bank q).rx ∨ WorksAt (.init q) s ∨ (SeqIdle s ∧ ∃ d, AgentTurn (.hostSetsDirRx q d) s)) := by
  rcases step_agent_cases h with ⟨a, rest, ha, rfl⟩ | ⟨_, _, _, rfl⟩ | ⟨i, hw, hc⟩
  · obtain ⟨htx, hrx⟩ := perform_pins a { s with agenda := rest } q
    exact ⟨htx.imp_right fun ⟨hi, d, e⟩ => .inr ⟨hi, d, e ▸ ha⟩, hrx.imp_right fun ⟨hi, d, e⟩ => .inr ⟨hi, d, e ▸ ha⟩⟩
  · exact ⟨.inl rfl, .inl rfl⟩
  · rcases hc.pins q with e | rfl
    · exact ⟨.inl (by rw [e]), .inl (by rw [e])⟩
    · exact ⟨.inr (.inl hw), .inr (.inl hw)⟩

/-- Only the block sets `TXREQ`, in SEND and SENDSYNC (R161). -/
theorem step_sets_txreq (ht : t.bank.txreq = 1#1) :
    s.bank.txreq = 1#1 ∨ ∃ m, WorksAt (.send m) s ∨ WorksAt (.sendsync m) s := by
  rcases step_agent_cases h with ⟨a, rest, -, rfl⟩ | ⟨_, _, _, rfl⟩ | ⟨i, hw, hc⟩
  · refine (BitVec.eq_zero_or_eq_one s.bank.txreq).symm.imp_right fun h0 => ?_
    exact absurd ((perform_txreq { s with agenda := rest } a h0).symm.trans ht) (by decide)
  · exact .inl ht
  · rcases hc.regs .txreq with e | hr
    · exact .inl ((setWidth_eq_one_iff _).1 (e.symm.trans ((setWidth_eq_one_iff _).2 ht)))
    · obtain ⟨m, rfl | rfl⟩ := isTransmit_of_blockWrites_txreq hr
      · exact .inr ⟨m, .inl hw⟩
      · exact .inr ⟨m, .inr hw⟩

/-- A field of one bit that was 1 stays so unless the peripheral or the host's main line writes it: the block clears none. -/
theorem step_keeps_bit {r : Reg} (hr : regWidth r = 1) (hs : regRead s.bank r = 1#8) :
    regRead t.bank r = 1#8 ∨ (∃ a, AgentTurn a s ∧ periphWrites a r = true) ∨ HostWrites r s := by
  rcases step_agent_cases h with ⟨a, rest, ha, rfl⟩ | ⟨_, _, _, rfl⟩ | ⟨i, -, hc⟩
  · exact (agentTurn_regRead ha rest r).imp_left fun e => e.trans hs
  · exact .inl hs
  · exact .inl (hc.bits r hr hs)

theorem step_clears_txreq (ht : t.bank.txreq = 0#1) :
    s.bank.txreq = 0#1 ∨ HostWrites .txreq s ∨ AgentTurn .periphClearsTxreq s := by
  refine (BitVec.eq_zero_or_eq_one s.bank.txreq).imp_right fun hs => ?_
  have hcleared : regRead t.bank .txreq ≠ 1#8 := by simp [regRead, ht]
  rcases (step_keeps_bit h (r := .txreq) rfl ((setWidth_eq_one_iff _).2 hs)).resolve_left hcleared with ⟨a, ha, hp⟩ | hw
  · exact .inr (periphWrites_txreq a hp ▸ ha)
  · exact .inl hw

theorem step_clears_abortReq (ht : t.bank.abortReq = 0#1) :
    s.bank.abortReq = 0#1 ∨ HostWrites .abortReq s ∨ AgentTurn .periphClearsAbort s := by
  refine (BitVec.eq_zero_or_eq_one s.bank.abortReq).imp_right fun hs => ?_
  have hcleared : regRead t.bank .abortReq ≠ 1#8 := by simp [regRead, ht]
  rcases (step_keeps_bit h (r := .abortReq) rfl ((setWidth_eq_one_iff _).2 hs)).resolve_left hcleared with ⟨a, ha, hp⟩ | hw
  · exact .inr (periphWrites_abortReq a hp ▸ ha)
  · exact .inl hw

/-- A bank's enable is never cleared (R24). -/
theorem step_keeps_filtEn (n : BankNo) (hs : (filterBank s.bank n).en = 1#1) : (filterBank t.bank n).en = 1#1 := by
  rcases step_agent_cases h with ⟨a, rest, -, rfl⟩ | ⟨_, _, _, rfl⟩ | ⟨i, -, hc⟩
  · exact perform_filtEn _ a n hs
  · exact hs
  · exact (setWidth_eq_one_iff _).1 (hc.bits (.filtEn n) rfl ((setWidth_eq_one_iff _).2 hs))

/-- A field of one bit that is none of the peripheral's own is cleared by the host's main line alone. -/
theorem step_keeps_bit_but_for_the_host {r : Reg} (hr : regWidth r = 1) (hp : ∀ a, periphWrites a r = false)
    (hs : regRead s.bank r = 1#8) : regRead t.bank r = 1#8 ∨ HostWrites r s :=
  (step_keeps_bit h hr hs).imp_right fun
    | .inl ⟨a, _, ha⟩ => absurd ha (by simp [hp a])
    | .inr hw => hw

theorem step_keeps_rxie0 (hs : s.bank.rxie0 = 1#1) : t.bank.rxie0 = 1#1 ∨ HostWrites .rxie0 s := by
  have hp (a : Act) : periphWrites a .rxie0 = false := by cases a <;> rfl
  exact (step_keeps_bit_but_for_the_host h rfl hp ((setWidth_eq_one_iff _).2 hs)).imp_left (setWidth_eq_one_iff _).1

theorem step_keeps_driveEn (hs : s.bank.driveEn = 1#1) : t.bank.driveEn = 1#1 ∨ HostWrites .driveEn s := by
  have hp (a : Act) : periphWrites a .driveEn = false := by cases a <;> rfl
  exact (step_keeps_bit_but_for_the_host h rfl hp ((setWidth_eq_one_iff _).2 hs)).imp_left (setWidth_eq_one_iff _).1

end Owners

/-! ### The obligations -/

/-- Settles O50: of the owners of `TS.code` the block writes NOTHING_SENT and SENDING only. -/
theorem onlyTheHostWritesOkOrError : Obligations.OnlyTheHostWritesOkOrError := by
  unfold Obligations.OnlyTheHostWritesOkOrError
  intro s t h hcode
  rcases step_tsCode h with e | ha | ⟨e, -⟩ | ⟨e, -⟩
  · exact .inl e
  · exact .inr ha
  · simp [e] at hcode
  · simp [e] at hcode

/-- Settles O51: the block writes only 1 to a field of one bit, the peripheral none of these fields, and no turn of the host a 0 to
a bank's enable. -/
theorem enablesAreNeverCleared : Obligations.EnablesAreNeverCleared := by
  unfold Obligations.EnablesAreNeverCleared
  exact fun _ _ h => ⟨step_keeps_filtEn h, step_keeps_rxie0 h, step_keeps_driveEn h⟩

/-- Settles O52, by the owners of each field. -/
theorem everyFieldHasItsOwner : Obligations.EveryFieldHasItsOwner := by
  unfold Obligations.EveryFieldHasItsOwner
  exact fun _ _ h => ⟨step_params h, step_seq h, step_fsc h, step_initDone h, step_tsCode h, step_timestamp h, step_regRead h,
    step_pins h, step_sets_txreq h, step_clears_txreq h, step_clears_abortReq h⟩

end Sys2Proof.Machine
end

section
/-! SUPPORT. The register bank and the other agents' turns as 20_memory.md has them: one field an access (R43), the liberties of the
peripheral (R48 to R51), and the silence of an IDLE block (R54). -/

namespace Sys2Proof.Machine

/-- A register reads as `trunc_w` of what was written to it (R43). -/
theorem regRead_regWrite_trunc (b : Bank) (r : Reg) (v : Byte) :
    regRead (regWrite b r v) r = BitVec.ofNat 8 (v.toNat % 2 ^ regWidth r) := by
  have hlt : v.toNat % 2 ^ regWidth r < 2 ^ 8 := (Nat.mod_le _ _).trans_lt v.isLt
  apply BitVec.eq_of_toNat_eq
  rw [regRead_regWrite_same, BitVec.toNat_ofNat, Nat.mod_eq_of_lt hlt]

/-- The pin pairs after one of them was replaced. -/
theorem pins_setPins (b : Bank) (r q : Routing) (p : PinPair) : pins (setPins b r p) q = if q = r then p else pins b q := by
  split
  · next h => rw [h, pins_setPins_same]
  · next h => exact pins_setPins_other b p h

/-- Another agent's turn is that agent's step, whatever the sequencer and the port hold (R46). -/
theorem step_agentTurn (s : State) (a : Act) (rest : List Turn) :
    step { s with agenda := .agent a :: rest } = .next (perform a { s with agenda := rest }) := rfl

/-- A field of at most 8 bits keeps the value that a write carries to it. -/
theorem setWidth_setWidth_byte {w : Nat} (v : BitVec w) (h : w ≤ 8) : (v.setWidth 8).setWidth w = v := by
  rw [BitVec.setWidth_setWidth_of_le v h, BitVec.setWidth_eq]

/-- An undisturbed turn of the block at IDLE changes nothing. -/
theorem blockTurn_idle_undisturbed {s : State} (hi : SeqIdle s) (ha : Undisturbed s) : blockTurn s = s := by
  obtain ⟨k, -, e⟩ := runUndisturbed_eq undisturbedBound s
  simp only [blockTurn, ha, e, microSteps_idle k hi]

/-- With no other agent's turn and nothing on the port a step is the block's turn. -/
theorem step_eq_blockTurn {s : State} (ha : Undisturbed s) (hp : s.port = []) : step s = .next (blockTurn s) := by
  simp only [step, ha, fetchWord_eq_none.2 (.inl hp)]

/-! ### The obligations -/

/-- Settles O53: each liberty is one write of one field, of a value the field keeps whole. -/
theorem peripheralTakesOnlyItsLiberties : Obligations.PeripheralTakesOnlyItsLiberties := by
  unfold Obligations.PeripheralTakesOnlyItsLiberties
  intro s rest v m
  simp only [step_agentTurn, perform, State.write, State.withBank, regWrite]
  refine ⟨rfl, ?_, rfl, ?_⟩
  · rw [setWidth_setWidth_byte v (by decide)]
  · rw [setWidth_setWidth_byte m (by decide)]

/-- Settles O56: the step is the block's turn, which is empty at IDLE; power-on is such a state. -/
theorem nothingHappensWithoutACommand : Obligations.NothingHappensWithoutACommand := by
  unfold Obligations.NothingHappensWithoutACommand
  have hstill (s : State) (hi : SeqIdle s) (ha : Undisturbed s) (hp : s.port = []) : step s = .next s := by
    rw [step_eq_blockTurn ha hp, blockTurn_idle_undisturbed hi ha]
  exact ⟨hstill State.reset rfl rfl rfl, hstill⟩

/-- Settles O57, from the laws of the register bank by register name. -/
theorem registerWritesChangeOneField : Obligations.RegisterWritesChangeOneField := by
  unfold Obligations.RegisterWritesChangeOneField
  refine ⟨fun s x y v => ⟨?_, ?_, ?_, rfl⟩, fun b r q d y => ⟨?_, ?_, ?_, ?_⟩⟩
  · exact regRead_regWrite_trunc s.bank x v
  · exact regRead_regWrite_other s.bank v
  · exact pins_regWrite s.bank x v
  · exact pins_setPins b r q _
  · exact pins_setPins b r q _
  · exact regRead_setPins b r _ y
  · exact regRead_setPins b r _ y

end Sys2Proof.Machine
end

section
/-! SUPPORT. SEND micro-step by micro-step while `TXREQ` is 0 (R158, R162 to R167): its run in closed form, and what the peripheral
then reads (R52). -/

namespace Sys2Proof.Machine

/-! ### The identifier bytes and the data registers -/

/-- HDR2B's bytes in closed form (R90). -/
theorem headerToBytes_eq (nodeID messageType : Byte) :
    headerToBytes nodeID messageType = (idHigh nodeID messageType, idLow nodeID) := by
  have hid : ((trunc3 messageType).setWidth 11 <<< 8 ||| nodeID.setWidth 11).toNat =
      messageType.toNat % 8 * 256 + nodeID.toNat := by
    have hshift : messageType.toNat % 8 * 256 < 2048 := by omega
    have hnode : nodeID.toNat < 2048 := by omega
    have hor := Nat.shiftLeft_add_eq_or_of_lt (i := 8) nodeID.isLt (messageType.toNat % 8)
    rw [Nat.shiftLeft_eq] at hor
    simp [trunc3, Nat.shiftLeft_eq, Nat.mod_eq_of_lt hshift, Nat.mod_eq_of_lt hnode, hor]
  refine Prod.ext (BitVec.eq_of_toNat_eq ?_) (BitVec.eq_of_toNat_eq ?_)
  · simp only [headerToBytes, idHigh, BitVec.extractLsb'_toNat, hid, BitVec.toNat_ofNat]
    omega
  · simp only [headerToBytes, idLow, BitVec.extractLsb'_toNat, hid, BitVec.toNat_ofNat, BitVec.toNat_shiftLeft,
      BitVec.toNat_setWidth]
    omega

/-- The data registers after SEND's first `n` data steps, which started from `old` (R165). -/
def dataWritten (m : Message) (n : Nat) (old : Vector Byte 8) : Vector Byte 8 :=
  Vector.ofFn fun i => if i.val < n then m.data[i] else old[i]

theorem dataWritten_getElem (m : Message) (n : Nat) (old : Vector Byte 8) {i : Nat} (hi : i < 8) :
    (dataWritten m n old)[i] = if i < n then m.data[i] else old[i] := by
  simp [dataWritten]

theorem dataWritten_zero (m : Message) (old : Vector Byte 8) : dataWritten m 0 old = old := by
  ext i hi
  simp [dataWritten_getElem]

/-- The data step `S4.n` carries the data on by one register. -/
theorem dataWritten_succ (m : Message) {n : Nat} (hn : n < 8) (old : Vector Byte 8) :
    (dataWritten m n old).set n m.data[n] = dataWritten m (n + 1) old := by
  ext i hi
  rw [Vector.getElem_set, dataWritten_getElem, dataWritten_getElem]
  by_cases h : n = i
  · simp [h]
  · have hiff : i < n ↔ i < n + 1 := by omega
    simp [h, hiff]

/-- The registers written are the message's first bytes. -/
theorem take_dataWritten (m : Message) (n : Nat) (old : Vector Byte 8) :
    (dataWritten m n old).toList.take n = m.data.toList.take n := by
  apply List.ext_getElem
  · simp
  · intro i hi _
    have hin : i < n := by simp at hi; omega
    simp [dataWritten_getElem, hin]

/-! ### The micro-steps -/

/-- SEND runs with `TXREQ` = 0, or has ended. -/
def SendUnblocked (s : State) : Prop := SeqIdle s ∨ ∃ m l, s.seq = .send m l ∧ TxIdle s

theorem SendUnblocked.not_pollFails {s : State} (h : SendUnblocked s) : pollFails s = false := by
  rcases h with hi | ⟨m, l, hq, htx⟩
  · simp [pollFails, hi]
  · unfold pollFails
    split <;> simp_all [txreqSet]

theorem SendUnblocked.next {s : State} (h : SendUnblocked s) : SendUnblocked (microStep s) := by
  rcases h with hi | ⟨m, l, hq, htx⟩
  · rw [microStep_idle hi]; exact .inl hi
  · have hgo (t : State) (l' : SendLabel) (ht : TxIdle t) : SendUnblocked (t.goto (.send m l')) := .inr ⟨m, l', rfl, ht⟩
    simp only [microStep, hq, microSend]
    cases l with
    | s5 => exact .inl rfl
    | wait l =>
      cases l with
      | a0 => simp only [microMessage, microWait, txreqSet, htx]; exact hgo s _ htx
      | a1 | a2 => exact hgo _ _ htx
    | s0 | s1 | s2 | s3 | s4 i => exact hgo _ _ htx

/-- Undisturbed and with no message pending, SEND polls once: its turn is a plain run of micro-steps. -/
theorem SendUnblocked.runUndisturbed_eq {s : State} (h : SendUnblocked s) (n : Nat) : runUndisturbed n s = microSteps n s := by
  induction n generalizing s with
  | zero => rfl
  | succ n ih => simp only [runUndisturbed, h.not_pollFails, Bool.false_eq_true, if_false, ih h.next, microSteps]

section Run
variable (m : Message) (s : State)

/-- SEND before its next data step or `S5`: the status, the identifier and the length are written (R162 to R164), and the first `n`
data registers (R165). -/
def sendAtData (n : Nat) : State :=
  { s with
    seq := .send m (afterData m n)
    tsCode := .sending
    bank := { s.bank with
      txidH := idHigh m.nodeID m.messageType, txidL := idLow m.nodeID, txdlc := m.dataLength
      txd := dataWritten m n s.bank.txd } }

/-- SEND at its end: `TXREQ` is set last (R167). -/
def sendDone : State :=
  { sendAtData m s m.dataLength.toNat with
    seq := .idle
    bank := { (sendAtData m s m.dataLength.toNat).bank with txreq := 1#1 } }

variable {m s}

/-- `S0`, the read of `TXREQ` and `S1` to `S3` come before the data. -/
theorem microSteps_send_header (htx : TxIdle s) : microSteps 5 (s.goto (.send m .s0)) = sendAtData m s 0 := by
  simp [microSteps, microStep, microSend, microMessage, microWait, txreqSet, htx, headerToBytes_eq, sendAtData,
    dataWritten_zero, State.goto, State.setCode, State.write, State.withBank, regWrite]

theorem microStep_sendAtData {n : Nat} (hn : n < m.dataLength.toNat) (hlen : m.dataLength.toNat ≤ 8) :
    microStep (sendAtData m s n) = sendAtData m s (n + 1) := by
  have hn8 : n < 8 := by omega
  have hlabel : afterData m n = .s4 ⟨n, hn8⟩ := by simp [afterData, hn8, hn]
  simp [microStep, microSend, microMessage, sendAtData, hlabel, State.goto, State.write, State.withBank, regWrite,
    dataWritten_succ m hn8]

/-- The data steps, by rising index. -/
theorem microSteps_sendAtData {n : Nat} (hn : n ≤ m.dataLength.toNat) (hlen : m.dataLength.toNat ≤ 8) :
    microSteps n (sendAtData m s 0) = sendAtData m s n := by
  induction n with
  | zero => rfl
  | succ n ih => rw [microSteps_add, ih (by omega), microSteps, microSteps, microStep_sendAtData hn hlen]

theorem microStep_sendAtData_last : microStep (sendAtData m s m.dataLength.toNat) = sendDone m s := by
  have hlabel : afterData m m.dataLength.toNat = .s5 := by simp [afterData]
  simp [microStep, microSend, microMessage, sendAtData, hlabel, sendDone, State.goto, State.write, State.withBank, regWrite]

/-- SEND takes `6 + dataLength` micro-steps, after which the block is at IDLE and does nothing. -/
theorem microSteps_send {k : Nat} (htx : TxIdle s) (hlen : m.dataLength.toNat ≤ 8) (hk : 6 + m.dataLength.toNat ≤ k) :
    microSteps k (s.goto (.send m .s0)) = sendDone m s := by
  obtain ⟨j, rfl⟩ := Nat.exists_eq_add_of_le hk
  have hsplit : 6 + m.dataLength.toNat + j = 5 + (m.dataLength.toNat + (1 + j)) := by omega
  rw [hsplit, microSteps_add, microSteps_send_header htx, microSteps_add, microSteps_sendAtData (Nat.le_refl _) hlen,
    microSteps_add, microSteps, microSteps, microStep_sendAtData_last]
  exact microSteps_idle j rfl

/-- SEND is accepted when the length is legal (R159), and its run begins at `S0`. -/
theorem exec_send_accepted (hi : SeqIdle s) (hlen : m.dataLength.toNat ≤ 8) :
    exec (.send m) s = .next (blockTurn (s.goto (.send m .s0))) :=
  acceptCommand_accepted hi (if_pos hlen)

/-- An undisturbed SEND with no message pending runs to its end. -/
theorem exec_send_undisturbed (hi : SeqIdle s) (ha : Undisturbed s) (htx : TxIdle s) (hlen : m.dataLength.toNat ≤ 8) :
    exec (.send m) s = .next (sendDone m s) := by
  have hfree : SendUnblocked (s.goto (.send m .s0)) := .inr ⟨m, .s0, rfl, htx⟩
  have hbound : 6 + m.dataLength.toNat ≤ undisturbedBound := by unfold undisturbedBound; omega
  rw [exec_send_accepted hi hlen, blockTurn, State.goto_agenda, ha]
  simp only [hfree.runUndisturbed_eq, microSteps_send htx hlen hbound]

/-- What the peripheral reads after SEND is the message, cut to its length (R52, R165). -/
theorem handedOver_sendDone : handedOver (sendDone m s).bank =
    some (idHigh m.nodeID m.messageType, idLow m.nodeID, m.data.toList.take m.dataLength.toNat) := by
  simp [handedOver, sendDone, sendAtData, take_dataWritten]

end Run

/-! ### The obligation -/

/-- Settles O45: the run of SEND in closed form, and what the peripheral reads at its end. -/
theorem thePeripheralReadsTheMessageSent : Obligations.ThePeripheralReadsTheMessageSent := by
  unfold Obligations.ThePeripheralReadsTheMessageSent
  exact fun m s hi ha htx hlen => ⟨sendDone m s, exec_send_undisturbed hi ha htx hlen, handedOver_sendDone⟩

end Sys2Proof.Machine
end

section
/-! SUPPORT. The command word of 30_encoding.md: the encoder and the decoder read against the formats of R64, and what a step makes
of the decoded word (R60, R66). -/

namespace Sys2Proof

/-! ### The bits of a word below a place -/

/-- The word made of the bits of `w` below bit `n`. -/
def lowBits (w : CommandWord) (n : Nat) : CommandWord := (w.setWidth n).setWidth 88

theorem getLsbD_lowBits (w : CommandWord) (n j : Nat) : (lowBits w n).getLsbD j = (decide (j < n) && w.getLsbD j) := by
  by_cases h : j < 88
  · simp [lowBits, h]
  · simp [BitVec.getLsbD_of_ge _ j (Nat.le_of_not_lt h)]

theorem getLsbD_place {n : Nat} (lo : Nat) (v : BitVec n) (j : Nat) :
    (place lo v).getLsbD j = (decide (lo ≤ j ∧ j < 88) && v.getLsbD (j - lo)) := by
  simp only [place, BitVec.getLsbD_shiftLeft, BitVec.getLsbD_setWidth]
  grind

theorem getLsbD_field (w : CommandWord) (lo n j : Nat) :
    (field w lo n).getLsbD j = (decide (j < n) && w.getLsbD (lo + j)) := by
  simp [field]

theorem place_field_zero (w : CommandWord) (n : Nat) : place 0 (field w 0 n) = lowBits w n := by
  apply BitVec.eq_of_getLsbD_eq
  intro j hj
  rw [getLsbD_place, getLsbD_field, getLsbD_lowBits]
  simp [hj]

/-- A field put back above the bits that lie below it. -/
theorem lowBits_or_place_field (w : CommandWord) (lo n : Nat) :
    lowBits w lo ||| place lo (field w lo n) = lowBits w (lo + n) := by
  apply BitVec.eq_of_getLsbD_eq
  intro j hj
  simp only [BitVec.getLsbD_or, getLsbD_place, getLsbD_field, getLsbD_lowBits]
  by_cases h : j < lo
  · simp [h, Nat.lt_add_right n h, Nat.not_le.2 h]
  · simp [h, hj, Nat.le_of_not_lt h, Nat.add_sub_cancel' (Nat.le_of_not_lt h), Nat.sub_lt_iff_lt_add' (Nat.le_of_not_lt h)]

theorem lowBits_of_ushiftRight_eq_zero {w : CommandWord} {n : Nat} (h : w >>> n = 0#88) : lowBits w n = w := by
  apply BitVec.eq_of_getLsbD_eq
  intro j _
  rw [getLsbD_lowBits]
  by_cases hjn : j < n
  · simp [hjn]
  · have hbit : (w >>> n).getLsbD (j - n) = false := by simp [h]
    rw [BitVec.getLsbD_ushiftRight, Nat.add_sub_cancel' (Nat.le_of_not_lt hjn)] at hbit
    simp [hbit]

/-- The bits from `n` up are not all 0 exactly if one of them is 1. -/
theorem ushiftRight_ne_zero_iff (w : CommandWord) (n : Nat) :
    w >>> n ≠ 0#88 ↔ ∃ j, n ≤ j ∧ j < 88 ∧ w.getLsbD j = true := by
  constructor
  · intro h
    by_contra! hall
    apply h
    apply BitVec.eq_of_getLsbD_eq
    intro j _
    rw [BitVec.getLsbD_ushiftRight, BitVec.getLsbD_zero]
    by_cases hlt : n + j < 88
    · exact Bool.eq_false_of_not_eq_true (hall (n + j) (Nat.le_add_right n j) hlt)
    · exact BitVec.getLsbD_of_ge w _ (Nat.le_of_not_lt hlt)
  · rintro ⟨j, hnj, -, hbit⟩ h
    have hzero : (w >>> n).getLsbD (j - n) = false := by simp [h]
    rw [BitVec.getLsbD_ushiftRight, Nat.add_sub_cancel' hnj, hbit] at hzero
    cases hzero

/-! ### The formats (R64) -/

/-- The first reserved bit in the format of an opcode (R64); format T, and an opcode without a format, has none. -/
def formatWidth (op : Nat) : Nat :=
  match op with
  | 0x0 | 0x1 | 0x7 | 0x8 => 20
  | 0x2 | 0x4 => 36
  | 0x3 | 0x6 => 12
  | 0x5 => 5
  | 0x9 => 4
  | _ => 88

/-- The first reserved bit in the format of a command. -/
abbrev Instr.width (i : Instr) : Nat := formatWidth i.opcode.toNat

/-- The command of the same opcode whose operands are those of the word `w` (R64). -/
def Instr.readFrom (w : CommandWord) : Instr → Instr
  | .hdr2b _ _ => .hdr2b (field w 4 8) (field w 12 8)
  | .b2hdr _ _ => .b2hdr (field w 4 8) (field w 12 8)
  | .penc _ _ _ _ => .penc (field w 4 8) (field w 12 8) (field w 20 8) (field w 28 8)
  | .pdecop _ => .pdecop (field w 4 8)
  | .baud _ _ => .baud (field w 4 16) (field w 20 16)
  | .init _ => .init (Routing.ofCode (field w 4 1))
  | .setmode _ => .setmode (field w 4 8)
  | .fstrict _ _ => .fstrict (field w 4 8) (field w 12 8)
  | .ffirst _ _ => .ffirst (field w 4 8) (field w 12 8)
  | .await => .await
  | .send _ => .send (messageOf w)
  | .sendsync _ => .sendsync (messageOf w)

@[simp] theorem Routing.ofCode_code (r : Routing) : Routing.ofCode r.code = r := by cases r <;> rfl

@[simp] theorem Routing.code_ofCode (b : BitVec 1) : (Routing.ofCode b).code = b := by
  revert b
  decide

theorem checkReserved_of_eq_zero {w : CommandWord} {top : Nat} (h : w >>> top = 0#88) (i : Instr) :
    checkReserved w top i = .ok i := if_pos h

theorem checkReserved_of_ne_zero {w : CommandWord} {top : Nat} (h : w >>> top ≠ 0#88) (i : Instr) :
    checkReserved w top i = .error .reservedBit := if_neg h

/-! ### The encoder -/

/-- The opcode of R61 stands in `W[3:0]` of every command word (R64). -/
theorem field_encode_opcode (i : Instr) : field (encode i) 0 4 = i.opcode := by
  cases i with
  | hdr2b a b => exact Laws.OpcodeField.hdr2b a b
  | b2hdr a b => exact Laws.OpcodeField.b2hdr a b
  | penc a b c d => exact Laws.OpcodeField.penc a b c d
  | pdecop a => exact Laws.OpcodeField.pdecop a
  | baud a b => exact Laws.OpcodeField.baud a b
  | init r => exact Laws.OpcodeField.init r
  | setmode a => exact Laws.OpcodeField.setmode a
  | fstrict a b => exact Laws.OpcodeField.fstrict a b
  | ffirst a b => exact Laws.OpcodeField.ffirst a b
  | await => exact Laws.OpcodeField.await
  | send m => exact Laws.OpcodeField.send m
  | sendsync m => exact Laws.OpcodeField.sendsync m

/-- Format T has no reserved bit. -/
theorem ushiftRight_88 (w : CommandWord) : w >>> 88 = 0#88 := BitVec.ushiftRight_eq_zero (le_refl 88)

/-- The reserved bits of every command word are 0 (R64). -/
theorem encode_ushiftRight_width (i : Instr) : encode i >>> i.width = 0#88 := by
  cases i with
  | send m | sendsync m => exact ushiftRight_88 _
  | _ => simp [Instr.width, Instr.opcode, formatWidth, encode, or_ushiftRight, place_ushiftRight]

/-- Format T: the operand fields of a message's word read the message. -/
theorem messageOf_encodeMessage (m : Message) (opcode : BitVec 4) : messageOf (encodeMessage m opcode) = m := by
  have hdata : #v[m.data[0], m.data[1], m.data[2], m.data[3], m.data[4], m.data[5], m.data[6], m.data[7]] = m.data := by
    ext i hi
    interval_cases i <;> rfl
  simp [messageOf, encodeMessage, field_or, field_place_same, field_place_disjoint, hdata]

/-- Every operand is read back from its place, whole. -/
theorem readFrom_encode (i : Instr) : i.readFrom (encode i) = i := by
  cases i with
  | send m | sendsync m => simp only [Instr.readFrom, encode, messageOf_encodeMessage]
  | _ => simp [Instr.readFrom, encode, field_or, field_place_same, field_place_disjoint]

/-- The operands read from a word, put back above its opcode, are the word below its reserved bits. -/
theorem encode_readFrom {w : CommandWord} {i : Instr} (h : field w 0 4 = i.opcode) :
    encode (i.readFrom w) = lowBits w i.width := by
  have hop : place 0 i.opcode = lowBits w 4 := by rw [← h, place_field_zero]
  cases i
  all_goals
    rw [Instr.opcode] at hop
    simp [Instr.readFrom, Instr.width, Instr.opcode, formatWidth, encode, encodeMessage, messageOf, hop, lowBits_or_place_field]

/-! ### The decoder -/

/-- The decoder on a word that carries the opcode of `i`: it reads the operands of `i`'s format and tests its reserved bits. -/
theorem decode_of_opcode {w : CommandWord} {i : Instr} (h : field w 0 4 = i.opcode) :
    decode w = checkReserved w i.width (i.readFrom w) := by
  rw [decode, h]
  cases i with
  | send m | sendsync m => exact (checkReserved_of_eq_zero (ushiftRight_88 w) _).symm
  | _ => rfl

/-- Below 0xC every opcode is a command's: that of its word with all operands 0. -/
theorem exists_opcode_eq {op : BitVec 4} (h : op.toNat < 12) : ∃ i : Instr, op = i.opcode := by
  have hzero : ∀ op : BitVec 4, op.toNat < 12 → (decode (op.setWidth 88)).toOption.map Instr.opcode = some op := by decide
  obtain ⟨i, -, hi⟩ := Option.map_eq_some_iff.1 (hzero op h)
  exact ⟨i, hi.symm⟩

theorem opcode_lt_12 (i : Instr) : i.opcode.toNat < 12 := by
  cases i <;> simp [Instr.opcode]

theorem decode_of_reservedOpcode {w : CommandWord} (h : 12 ≤ (field w 0 4).toNat) : decode w = .error .reservedOpcode := by
  have hlt := (field w 0 4).isLt
  obtain e | e | e | e : (field w 0 4).toNat = 12 ∨ (field w 0 4).toNat = 13 ∨ (field w 0 4).toNat = 14 ∨
      (field w 0 4).toNat = 15 := by omega
  all_goals simp [decode, e]

/-- Decode of encode is the instruction, whatever its operands (R64, R65). -/
theorem decode_encode (i : Instr) : decode (encode i) = .ok i := by
  rw [decode_of_opcode (field_encode_opcode i), checkReserved_of_eq_zero (encode_ushiftRight_width i), readFrom_encode]

/-- What the decoder can answer, once for all opcodes: a reserved opcode or a reserved bit is INVALID, and any other word is the
word of the command it decodes to (R65). -/
theorem decode_cases (w : CommandWord) :
    (12 ≤ (field w 0 4).toNat ∧ decode w = .error .reservedOpcode) ∨
    (w >>> formatWidth (field w 0 4).toNat ≠ 0#88 ∧ decode w = .error .reservedBit) ∨
    (∃ i, w = encode i ∧ decode w = .ok i) := by
  by_cases hres : 12 ≤ (field w 0 4).toNat
  · exact .inl ⟨hres, decode_of_reservedOpcode hres⟩
  · obtain ⟨i, hi⟩ := exists_opcode_eq (Nat.lt_of_not_le hres)
    by_cases hbits : w >>> i.width = 0#88
    · have hw : w = encode (i.readFrom w) := by rw [encode_readFrom hi, lowBits_of_ushiftRight_eq_zero hbits]
      exact .inr (.inr ⟨i.readFrom w, hw, by rw [decode_of_opcode hi, checkReserved_of_eq_zero hbits]⟩)
    · exact .inr (.inl ⟨by rwa [hi], by rw [decode_of_opcode hi, checkReserved_of_ne_zero hbits]⟩)

/-- Words that decode and commands are one to one. -/
theorem decode_eq_ok_iff (w : CommandWord) (i : Instr) : decode w = .ok i ↔ encode i = w := by
  constructor
  · intro h
    obtain ⟨-, e⟩ | ⟨-, e⟩ | ⟨j, hw, e⟩ := decode_cases w
    · simp [h] at e
    · simp [h] at e
    · rw [hw, Except.ok.inj (h.symm.trans e)]
  · rintro rfl
    exact decode_encode i

/-- The words that decode: an opcode below 0xC and no reserved bit of its format. -/
theorem exists_decode_eq_ok_iff (w : CommandWord) :
    (∃ i, decode w = .ok i) ↔ (field w 0 4).toNat < 12 ∧ w >>> formatWidth (field w 0 4).toNat = 0#88 := by
  constructor
  · rintro ⟨i, h⟩
    rw [← (decode_eq_ok_iff w i).1 h, field_encode_opcode]
    exact ⟨opcode_lt_12 i, encode_ushiftRight_width i⟩
  · rintro ⟨hop, hbits⟩
    obtain ⟨h, -⟩ | ⟨h, -⟩ | ⟨i, -, h⟩ := decode_cases w
    · exact absurd hop (Nat.not_lt.2 h)
    · exact absurd hbits h
    · exact ⟨i, h⟩

theorem exists_decode_eq_error_iff (w : CommandWord) : (∃ e, decode w = .error e) ↔ ¬ ∃ i, decode w = .ok i := by
  cases decode w <;> simp

theorem toNat_opcodeField (w : CommandWord) : (field w 0 4).toNat = w.toNat % 16 := by simp [field]

/-- The reserved bits of format T are none, of the other formats those R64 lists. -/
theorem reservedBit_iff {op : Nat} (hop : op < 12) (w : CommandWord) :
    w >>> formatWidth op ≠ 0#88 ↔
      ((op = 0 ∨ op = 1 ∨ op = 7 ∨ op = 8) ∧ w >>> 20 ≠ 0#88) ∨ ((op = 2 ∨ op = 4) ∧ w >>> 36 ≠ 0#88) ∨
      ((op = 3 ∨ op = 6) ∧ w >>> 12 ≠ 0#88) ∨ (op = 5 ∧ w >>> 5 ≠ 0#88) ∨ (op = 9 ∧ w >>> 4 ≠ 0#88) := by
  interval_cases op <;> simp [formatWidth, ushiftRight_88]

/-! ### The opcode table -/

/-- The mask of a format: the opcode and every bit from `n` up (spec/opcode_table.json). -/
def formatMask (n : Nat) : CommandWord := place 0 (BitVec.allOnes 4) ||| (BitVec.allOnes 88 <<< n)

theorem getLsbD_formatMask (n j : Nat) : (formatMask n).getLsbD j = decide (j < 88 ∧ (j < 4 ∨ n ≤ j)) := by
  simp only [formatMask, BitVec.getLsbD_or, getLsbD_place, BitVec.getLsbD_shiftLeft, BitVec.getLsbD_allOnes]
  grind

/-- Row `op` of the table is the mask of the format of `op` and the opcode, and there are no rows but the twelve of R61. -/
theorem opcodeTable_getElem? (op : Nat) :
    opcodeTable[op]? = if op < 12 then some (formatMask (formatWidth op), place 0 (BitVec.ofNat 4 op)) else none := by
  split
  · next h => interval_cases op <;> rfl
  · next h => exact List.getElem?_eq_none (Nat.le_of_not_lt h)

/-- The mask keeps the opcode. -/
theorem field_and_formatMask (w : CommandWord) (n : Nat) : field (w &&& formatMask n) 0 4 = field w 0 4 := by
  apply BitVec.eq_of_getLsbD_eq
  intro j hj
  have hkept : (formatMask n).getLsbD (0 + j) = true := by rw [getLsbD_formatMask]; grind
  rw [getLsbD_field, getLsbD_field, BitVec.getLsbD_and, hkept, Bool.and_true]

/-- The mask keeps the reserved bits. -/
theorem and_formatMask_ushiftRight (w : CommandWord) (n : Nat) : (w &&& formatMask n) >>> n = w >>> n := by
  apply BitVec.eq_of_getLsbD_eq
  intro j _
  rw [BitVec.getLsbD_ushiftRight, BitVec.getLsbD_ushiftRight, BitVec.getLsbD_and, getLsbD_formatMask]
  by_cases h : n + j < 88
  · simp [h]
  · simp [BitVec.getLsbD_of_ge w _ (Nat.le_of_not_lt h)]

/-- A word without reserved bits is masked to its opcode. -/
theorem and_formatMask_of_ushiftRight_eq_zero {w : CommandWord} {n : Nat} (h : w >>> n = 0#88) :
    w &&& formatMask n = place 0 (field w 0 4) := by
  rw [place_field_zero, ← lowBits_of_ushiftRight_eq_zero h]
  apply BitVec.eq_of_getLsbD_eq
  intro j hj
  simp only [BitVec.getLsbD_and, getLsbD_formatMask, getLsbD_lowBits]
  grind

/-- What the test `(W & mask) == match` of a row says: the opcode is the row's, and no reserved bit is 1. -/
theorem and_formatMask_eq_iff (w : CommandWord) {n : Nat} (hn : 4 ≤ n) (op : BitVec 4) :
    w &&& formatMask n = place 0 op ↔ field w 0 4 = op ∧ w >>> n = 0#88 := by
  constructor
  · intro h
    exact ⟨by rw [← field_and_formatMask w n, h, field_place_same 0 op (by decide)],
      by rw [← and_formatMask_ushiftRight w n, h, place_ushiftRight 0 op n (by omega)]⟩
  · rintro ⟨rfl, h⟩
    exact and_formatMask_of_ushiftRight_eq_zero h

theorem four_le_formatWidth (op : Nat) : 4 ≤ formatWidth op := by
  unfold formatWidth
  split <;> decide

/-- The words of a row of the table (30_encoding.md, preamble). -/
theorem exists_row_iff (w : CommandWord) (op : Nat) :
    (∃ row, opcodeTable[op]? = some row ∧ w &&& row.1 = row.2) ↔
      op < 12 ∧ field w 0 4 = BitVec.ofNat 4 op ∧ w >>> formatWidth op = 0#88 := by
  rw [opcodeTable_getElem?, ← and_formatMask_eq_iff w (four_le_formatWidth op)]
  by_cases h : op < 12 <;> simp [h]

/-- The words that decode to a command of opcode `op`. -/
theorem exists_decode_opcode_iff (w : CommandWord) (op : Nat) :
    (∃ i, decode w = .ok i ∧ i.opcode.toNat = op) ↔
      op < 12 ∧ field w 0 4 = BitVec.ofNat 4 op ∧ w >>> formatWidth op = 0#88 := by
  constructor
  · rintro ⟨i, h, rfl⟩
    rw [← (decode_eq_ok_iff w i).1 h, field_encode_opcode, BitVec.ofNat_toNat, BitVec.setWidth_eq]
    exact ⟨opcode_lt_12 i, rfl, encode_ushiftRight_width i⟩
  · rintro ⟨hop, hfield, hbits⟩
    have hnat : (field w 0 4).toNat = op := by rw [hfield, BitVec.toNat_ofNat, Nat.mod_eq_of_lt (by omega)]
    obtain ⟨i, h⟩ := (exists_decode_eq_ok_iff w).2 (by rw [hnat]; exact ⟨hop, hbits⟩)
    refine ⟨i, h, ?_⟩
    rw [← hnat, ← (decode_eq_ok_iff w i).1 h, field_encode_opcode]

end Sys2Proof

namespace Sys2Proof.Machine

/-! ### The step of a presented word (R60, R66) -/

section Fetched

variable {s s' : State} (hagenda : ∀ a later, s.agenda ≠ .agent a :: later)
include hagenda

/-- With no other agent's turn first, a step executes the command the port takes. -/
theorem step_of_fetchWord_ok {i : Instr} (h : fetchWord s = some (.ok i, s')) : step s = exec i s' := by
  unfold step
  split
  · next a later e => exact absurd e (hagenda a later)
  · rw [h]

/-- With no other agent's turn first, a step refuses the INVALID word the port takes. -/
theorem step_of_fetchWord_error {e : Invalid} (h : fetchWord s = some (.error e, s')) :
    step s = .refused .invalidCommandWord := by
  unfold step
  split
  · next a later e => exact absurd e (hagenda a later)
  · rw [h]

end Fetched

/-- An evaluation by the host returns what the pure operation returns (R186). -/
theorem perform_hostEvaluates {i : Instr} {r : Result} (h : pureResult i = some r) (s : State) :
    perform (.hostEvaluates i) s = { s with resultPort := some r } := by
  rw [perform, h, Option.some_or]

/-! ### The obligations -/

/-- Settles O1: the opcode and every operand are read back whole, and the reserved bits are 0. -/
theorem decodeOfEncodeIsTheInstruction : Obligations.DecodeOfEncodeIsTheInstruction := by
  unfold Obligations.DecodeOfEncodeIsTheInstruction
  exact decode_encode

/-- Settles O2: a word that decodes is its fields put back at their places. -/
theorem encodeOfADecodedWordIsTheWord : Obligations.EncodeOfADecodedWordIsTheWord := by
  unfold Obligations.EncodeOfADecodedWordIsTheWord
  exact fun w i => (decode_eq_ok_iff w i).1

/-- Settles O3, from the words that decode. -/
theorem wordIsInvalidExactlyWhenReserved : Obligations.WordIsInvalidExactlyWhenReserved := by
  unfold Obligations.WordIsInvalidExactlyWhenReserved
  intro w
  refine ⟨by cases decode w <;> simp, ?_⟩
  simp only [exists_decode_eq_error_iff, exists_decode_eq_ok_iff, toNat_opcodeField, ← ushiftRight_ne_zero_iff]
  by_cases hop : w.toNat % 16 < 12
  · simp only [hop, true_and, reservedBit_iff hop, Nat.not_le.2 hop, false_or]
  · simp only [hop, false_and, not_false_eq_true, Nat.le_of_not_lt hop, true_or]

/-- Settles O4: both sides say that the opcode is `op` and no bit of its format's reserved ones is 1. -/
theorem decoderAgreesWithTheOpcodeTable : Obligations.DecoderAgreesWithTheOpcodeTable := by
  unfold Obligations.DecoderAgreesWithTheOpcodeTable
  intro w op
  rw [exists_decode_opcode_iff, exists_row_iff]

/-- Settles O5, by running the decoder on the words. -/
theorem writtenWordsDecode : Obligations.WrittenWordsDecode := by
  unfold Obligations.WrittenWordsDecode
  decide

/-- Settles O6: the port takes the word, and the step executes it. -/
theorem stepExecutesTheDecodedCommand : Obligations.StepExecutesTheDecodedCommand := by
  unfold Obligations.StepExecutesTheDecodedCommand
  intro s w rest i hready hagenda hport hdecode
  have hfetch : fetchWord s = some (.ok i, { s with port := rest }) :=
    fetchWord_eq_some.2 ⟨w, rest, hport, hdecode.symm, rfl, hready.imp id fun hpure => ⟨i, hdecode, hpure⟩⟩
  exact step_of_fetchWord_ok hagenda hfetch

/-- Settles O7: an IDLE block takes the INVALID word, and the step refuses it. -/
theorem invalidWordIsRefused : Obligations.InvalidWordIsRefused := by
  unfold Obligations.InvalidWordIsRefused
  intro s w rest e hidle hagenda hport hdecode
  have hfetch : fetchWord s = some (.error e, { s with port := rest }) :=
    fetchWord_eq_some.2 ⟨w, rest, hport, hdecode.symm, rfl, .inl hidle⟩
  exact step_of_fetchWord_error hagenda hfetch

/-- Settles O15: the result is `pureResult`'s, which no state enters. -/
theorem pureOperationsReadNoState : Obligations.PureOperationsReadNoState := by
  unfold Obligations.PureOperationsReadNoState
  intro i hpure
  obtain ⟨r, hr, -⟩ := exec_pure hpure State.reset
  refine ⟨r, fun s => ⟨?_, perform_hostEvaluates hr s⟩⟩
  obtain ⟨r', hr', hexec⟩ := exec_pure hpure s
  rw [hexec, Option.some.inj (hr'.symm.trans hr)]

end Sys2Proof.Machine
end

section
/-! SUPPORT. The Identifier Codec (40_identifier_codec.md): B2HDR in closed form, the two operations as inverses of each other (R92 to
R94), and the words of formats H and Y as sums (R64). -/

namespace Sys2Proof

/-! ### A command word as a sum -/

/-- An operand placed above a number that lies below its place adds to it. -/
theorem ofNat_or_place {n lo m : Nat} (v : BitVec n) (hm : m < 2 ^ lo) (hlo : lo + n ≤ 88) :
    BitVec.ofNat 88 m ||| place lo v = BitVec.ofNat 88 (m + v.toNat * 2 ^ lo) := by
  have hm88 : m < 2 ^ 88 := hm.trans_le (Nat.pow_le_pow_right (by decide) (by omega))
  have hv88 : v.toNat < 2 ^ 88 := v.isLt.trans_le (Nat.pow_le_pow_right (by decide) (by omega))
  have hor := Nat.shiftLeft_add_eq_or_of_lt hm v.toNat
  apply BitVec.eq_of_toNat_eq
  rw [Nat.add_comm, ← Nat.shiftLeft_eq, hor]
  simp only [place, BitVec.toNat_or, BitVec.toNat_ofNat, BitVec.toNat_shiftLeft, BitVec.toNat_setWidth, Nat.or_mod_two_pow,
    Nat.mod_eq_of_lt hm88, Nat.mod_eq_of_lt hv88, Nat.or_comm]

/-- Formats H and Y: two bytes above the opcode (R64). -/
theorem twoByteWord_eq_ofNat (op : BitVec 4) (a b : Byte) :
    place 0 op ||| place 4 a ||| place 12 b = BitVec.ofNat 88 (op.toNat + a.toNat * 2 ^ 4 + b.toNat * 2 ^ 12) := by
  have hop : place 0 op = BitVec.ofNat 88 op.toNat := by simp [place]
  rw [hop, ofNat_or_place a (by omega) (by decide), ofNat_or_place b (by omega) (by decide)]

theorem decode_hdr2b_word (nodeID messageType : Byte) :
    decode (BitVec.ofNat 88 (0x0 + nodeID.toNat * 2 ^ 4 + messageType.toNat * 2 ^ 12)) = .ok (.hdr2b nodeID messageType) :=
  (decode_eq_ok_iff _ _).2 (twoByteWord_eq_ofNat 0x0#4 nodeID messageType)

theorem decode_b2hdr_word (high low : Byte) :
    decode (BitVec.ofNat 88 (0x1 + high.toNat * 2 ^ 4 + low.toNat * 2 ^ 12)) = .ok (.b2hdr high low) :=
  (decode_eq_ok_iff _ _).2 (twoByteWord_eq_ofNat 0x1#4 high low)

end Sys2Proof

namespace Sys2Proof.Machine

/-! ### What a pure operation leaves on the result port -/

/-- An operation that has a result leaves it on the port, and nothing else changes (R60). -/
theorem exec_of_pureResult {i : Instr} {r : Result} (h : pureResult i = some r) (s : State) :
    exec i s = .next { s with resultPort := some r } := by
  have hpure : i.isPure = true := by
    cases i with
    | hdr2b | b2hdr | penc | pdecop => rfl
    | _ => cases h
  obtain ⟨r', hr', hexec⟩ := exec_pure hpure s
  rw [hexec, Option.some.inj (hr'.symm.trans h)]

theorem resultPort_of_exec {i : Instr} {r : Result} (h : pureResult i = some r) {s t : State} (ht : exec i s = .next t) :
    t.resultPort = some r := by
  rw [exec_of_pureResult h s] at ht
  cases ht
  rfl

/-- An operation's answer shows its result. -/
theorem exec_eq_next_iff {i : Instr} {r : Result} (h : pureResult i = some r) (s : State) (r' : Result) :
    exec i s = .next { s with resultPort := some r' } ↔ r = r' := by
  constructor
  · intro ht
    exact Option.some.inj (resultPort_of_exec h ht).symm
  · rintro rfl
    exact exec_of_pureResult h s

theorem hdr2bResult_eq_iff (nodeID messageType high low : Byte) :
    hdr2bResult nodeID messageType = .identifierBytes high low ↔ headerToBytes nodeID messageType = (high, low) := by
  rw [hdr2bResult, Result.identifierBytes.injEq, Prod.ext_iff]

theorem b2hdrResult_eq_iff (high low nodeID : Byte) (messageType : BitVec 3) :
    b2hdrResult high low = .header messageType nodeID ↔ bytesToHeader high low = (messageType, nodeID) := by
  rw [b2hdrResult, Result.header.injEq, Prod.ext_iff]

/-! ### The identifier (R70) -/

theorem toNat_idHigh (nodeID messageType : Byte) :
    (idHigh nodeID messageType).toNat = messageType.toNat % 8 * 32 + nodeID.toNat / 8 := by
  rw [idHigh, BitVec.toNat_ofNat]
  omega

theorem toNat_idLow (nodeID : Byte) : (idLow nodeID).toNat = nodeID.toNat % 8 * 32 := by
  rw [idLow, BitVec.toNat_ofNat]
  omega

/-- The bytes HDR2B writes carry the header as their identifier. -/
theorem identifier_idHigh_idLow (nodeID messageType : Byte) :
    identifier (idHigh nodeID messageType) (idLow nodeID) = messageType.toNat % 8 * 256 + nodeID.toNat := by
  rw [identifier, toNat_idHigh, toNat_idLow]
  omega

/-- An identifier has 11 bits. -/
theorem identifier_lt (high low : Byte) : identifier high low < 2048 := by
  unfold identifier
  omega

/-- B2HDR's header in closed form (R91). -/
theorem bytesToHeader_eq (high low : Byte) :
    bytesToHeader high low =
      (BitVec.ofNat 3 (identifier high low / 256), BitVec.ofNat 8 (identifier high low % 256)) := by
  have hid : ((high.setWidth 16 <<< 8 ||| low.setWidth 16) >>> 5).toNat = identifier high low := by
    have hhigh : high.toNat * 2 ^ 8 < 2 ^ 16 := by omega
    have hlow : low.toNat < 2 ^ 16 := by omega
    have hor := Nat.shiftLeft_add_eq_or_of_lt (i := 8) low.isLt high.toNat
    rw [Nat.shiftLeft_eq] at hor
    simp only [identifier, BitVec.toNat_ushiftRight, BitVec.toNat_or, BitVec.toNat_shiftLeft, BitVec.toNat_setWidth,
      Nat.shiftLeft_eq, Nat.shiftRight_eq_div_pow, Nat.mod_mul_mod, Nat.mod_eq_of_lt hhigh, Nat.mod_eq_of_lt hlow, ← hor]
  refine Prod.ext (BitVec.eq_of_toNat_eq ?_) (BitVec.eq_of_toNat_eq ?_)
  · simp only [bytesToHeader, BitVec.toNat_setWidth, BitVec.toNat_ushiftRight _ 8, hid, BitVec.toNat_ofNat,
      Nat.shiftRight_eq_div_pow]
  · have hmask := Nat.and_two_pow_sub_one_eq_mod (identifier high low) 8
    simp only [bytesToHeader, BitVec.toNat_setWidth, BitVec.toNat_and, hid, BitVec.toNat_ofNat]
    exact congrArg (· % 2 ^ 8) hmask

/-! ### The low byte's two parts -/

/-- The mask 0xE0 clears `low[4:0]`. -/
theorem toNat_and_0xE0 (low : Byte) : (low &&& 0xE0#8).toNat = low.toNat / 32 * 32 := by
  have hmask : low &&& 0xE0#8 = low >>> 5 <<< 5 := by
    rw [BitVec.shiftLeft_ushiftRight]
    rfl
  rw [hmask, BitVec.toNat_shiftLeft, BitVec.toNat_ushiftRight, Nat.shiftLeft_eq, Nat.shiftRight_eq_div_pow]
  omega

theorem and_0x1F_eq_zero_iff (low : Byte) : low &&& 0x1F#8 = 0#8 ↔ low.toNat % 32 = 0 := by
  have hmod : (low &&& 0x1F#8).toNat = low.toNat % 32 := Nat.and_two_pow_sub_one_eq_mod low.toNat 5
  rw [← hmod, ← BitVec.toNat_inj]
  rfl

/-- Clearing `low[4:0]` changes nothing exactly when it is 0 already. -/
theorem and_0xE0_eq_self_iff (low : Byte) : low &&& 0xE0#8 = low ↔ low &&& 0x1F#8 = 0#8 := by
  rw [and_0x1F_eq_zero_iff, ← BitVec.toNat_inj, toNat_and_0xE0]
  omega

/-! ### The two operations undo each other -/

/-- R92: B2HDR reads back the header HDR2B wrote, its message type cut to three bits. -/
theorem bytesToHeader_of_headerToBytes {nodeID messageType high low : Byte}
    (h : headerToBytes nodeID messageType = (high, low)) : bytesToHeader high low = (trunc3 messageType, nodeID) := by
  rw [headerToBytes_eq] at h
  cases h
  rw [bytesToHeader_eq, identifier_idHigh_idLow]
  refine Prod.ext (BitVec.eq_of_toNat_eq ?_) (BitVec.eq_of_toNat_eq ?_)
  · simp only [trunc3, BitVec.toNat_ofNat, BitVec.toNat_setWidth]
    omega
  · simp only [BitVec.toNat_ofNat]
    omega

/-- R94: HDR2B writes back the bytes B2HDR read, but for `low[4:0]`, which B2HDR discards. -/
theorem headerToBytes_of_bytesToHeader {high low nodeID : Byte} {messageType : BitVec 3}
    (h : bytesToHeader high low = (messageType, nodeID)) :
    headerToBytes nodeID (messageType.setWidth 8) = (high, low &&& 0xE0#8) := by
  rw [bytesToHeader_eq] at h
  cases h
  rw [headerToBytes_eq]
  refine Prod.ext (BitVec.eq_of_toNat_eq ?_) (BitVec.eq_of_toNat_eq ?_)
  · simp only [toNat_idHigh, BitVec.toNat_setWidth, BitVec.toNat_ofNat]
    unfold identifier
    omega
  · simp only [toNat_idLow, toNat_and_0xE0, BitVec.toNat_ofNat]
    unfold identifier
    omega

/-- R93: onto the pairs with `low[4:0]` = 0, HDR2B is the inverse of B2HDR. -/
theorem headerToBytes_eq_iff {high low : Byte} (hlow : low &&& 0x1F#8 = 0#8) (nodeID : Byte) (messageType : BitVec 3) :
    headerToBytes nodeID (messageType.setWidth 8) = (high, low) ↔ bytesToHeader high low = (messageType, nodeID) := by
  constructor
  · intro h
    rw [bytesToHeader_of_headerToBytes h, trunc3, BitVec.setWidth_setWidth_of_le _ (by decide), BitVec.setWidth_eq]
  · intro h
    rw [headerToBytes_of_bytesToHeader h, (and_0xE0_eq_self_iff low).2 hlow]

/-! ### The obligations -/

/-- Settles O8, by the closed form of HDR2B's bytes. -/
theorem hdr2bReturnsTheIdentifierBytes : Obligations.Hdr2bReturnsTheIdentifierBytes := by
  unfold Obligations.Hdr2bReturnsTheIdentifierBytes
  intro nodeID messageType s
  have hresult : hdr2bResult nodeID messageType = .identifierBytes (idHigh nodeID messageType) (idLow nodeID) :=
    (hdr2bResult_eq_iff ..).2 (headerToBytes_eq nodeID messageType)
  exact ⟨idHigh nodeID messageType, idLow nodeID, decode_hdr2b_word nodeID messageType,
    (exec_eq_next_iff rfl s _).2 hresult, toNat_idHigh nodeID messageType, toNat_idLow nodeID,
    identifier_idHigh_idLow nodeID messageType⟩

/-- Settles O9, by the closed form of B2HDR's header; the identifier's 11 bits fit the two results. -/
theorem b2hdrReturnsTheHeader : Obligations.B2hdrReturnsTheHeader := by
  unfold Obligations.B2hdrReturnsTheHeader
  intro high low s
  have hid := identifier_lt high low
  refine ⟨_, _, decode_b2hdr_word high low,
    (exec_eq_next_iff rfl s _).2 ((b2hdrResult_eq_iff ..).2 (bytesToHeader_eq high low)), ?_, ?_⟩
  · rw [BitVec.toNat_ofNat]
    omega
  · rw [BitVec.toNat_ofNat]
    omega

/-- Settles O10: the second operation undoes the first, but for the bits the first discards. -/
theorem headerAndBytesRoundTrip : Obligations.HeaderAndBytesRoundTrip := by
  unfold Obligations.HeaderAndBytesRoundTrip
  constructor
  · intro nodeID messageType high low s t u ht hport hu
    have hbytes := (hdr2bResult_eq_iff ..).1 (Option.some.inj ((resultPort_of_exec rfl ht).symm.trans hport))
    rw [resultPort_of_exec rfl hu, (b2hdrResult_eq_iff ..).2 (bytesToHeader_of_headerToBytes hbytes), BitVec.ofNat_toNat,
      trunc3]
  · intro high low nodeID messageType s t u ht hport hu
    have hheader := (b2hdrResult_eq_iff ..).1 (Option.some.inj ((resultPort_of_exec rfl ht).symm.trans hport))
    have hresult : u.resultPort = some (.identifierBytes high (low &&& 0xE0#8)) := by
      rw [resultPort_of_exec rfl hu, (hdr2bResult_eq_iff ..).2 (headerToBytes_of_bytesToHeader hheader)]
    refine ⟨hresult, ?_⟩
    rw [hresult, ← and_0xE0_eq_self_iff]
    simp only [Option.some.injEq, Result.identifierBytes.injEq, true_and]

/-- Settles O11: the one header is B2HDR's. -/
theorem headersMapOneToOneOntoStandardPairs : Obligations.HeadersMapOneToOneOntoStandardPairs := by
  unfold Obligations.HeadersMapOneToOneOntoStandardPairs
  intro high low s hlow
  have hiff (h : Byte × BitVec 3) :
      exec (.hdr2b h.1 (h.2.setWidth 8)) s = .next { s with resultPort := some (.identifierBytes high low) } ↔
        h = (bytesToHeader high low).swap := by
    rw [exec_eq_next_iff rfl, hdr2bResult_eq_iff, headerToBytes_eq_iff hlow, ← Prod.swap_inj, eq_comm]
    rfl
  simp only [hiff, existsUnique_eq]

end Sys2Proof.Machine
end

section
/-! SUPPORT. The Payload Byte Codec (41_payload_codec.md): PENC's byte as a sum, the byte's four fields as its inverse (R100 to R102,
R104), and the words of formats P and B as sums (R64). -/

namespace Sys2Proof

theorem decode_penc_word (op err fw sc : Byte) :
    decode (BitVec.ofNat 88 (0x2 + op.toNat * 2 ^ 4 + err.toNat * 2 ^ 12 + fw.toNat * 2 ^ 20 + sc.toNat * 2 ^ 28)) =
      .ok (.penc op err fw sc) := by
  rw [decode_eq_ok_iff, encode, twoByteWord_eq_ofNat, ofNat_or_place fw (by omega) (by decide),
    ofNat_or_place sc (by omega) (by decide)]
  rfl

theorem decode_pdecop_word (byte : Byte) : decode (BitVec.ofNat 88 (0x3 + byte.toNat * 2 ^ 4)) = .ok (.pdecop byte) :=
  (decode_eq_ok_iff _ _).2 (ofNat_or_place byte (m := 0x3) (by decide) (by decide))

end Sys2Proof

namespace Sys2Proof.Machine

/-! ### The byte and its fields -/

/-- A field placed above the bits in use of a byte adds to it. -/
theorem toNat_fieldAbove_or {n lo : Nat} (v : BitVec n) {x : Byte} (hx : x.toNat < 2 ^ lo) (hlo : lo + n ≤ 8) :
    (v.setWidth 8 <<< lo ||| x).toNat = v.toNat * 2 ^ lo + x.toNat := by
  have hv : v.toNat < 2 ^ 8 := v.isLt.trans_le (Nat.pow_le_pow_right (by decide) (by omega))
  have hplaced : v.toNat * 2 ^ lo < 2 ^ 8 := calc
    v.toNat * 2 ^ lo < 2 ^ n * 2 ^ lo := Nat.mul_lt_mul_of_pos_right v.isLt (by positivity)
    _ = 2 ^ (n + lo) := (Nat.pow_add ..).symm
    _ ≤ 2 ^ 8 := Nat.pow_le_pow_right (by decide) (by omega)
  have hor := Nat.shiftLeft_add_eq_or_of_lt hx v.toNat
  rw [Nat.shiftLeft_eq] at hor
  simp only [BitVec.toNat_or, BitVec.toNat_shiftLeft, BitVec.toNat_setWidth, Nat.shiftLeft_eq, Nat.mod_eq_of_lt hv,
    Nat.mod_eq_of_lt hplaced, hor]

/-- PENC's byte as a sum: each field lies above those after it (R100). -/
theorem toNat_encodePayload (op err fw sc : Byte) :
    (encodePayload op err fw sc).toNat = op.toNat % 4 * 64 + err.toNat % 2 * 32 + fw.toNat % 4 * 8 + sc.toNat % 8 := by
  have hsc : ((trunc3 sc).setWidth 8).toNat = sc.toNat % 8 := by
    simp only [trunc3, BitVec.toNat_setWidth]
    omega
  have hfw := toNat_fieldAbove_or (lo := 3) (trunc2 fw) (x := (trunc3 sc).setWidth 8) (by omega) (by decide)
  have herr := toNat_fieldAbove_or (lo := 5) (trunc1 err) (x := (trunc2 fw).setWidth 8 <<< 3 ||| (trunc3 sc).setWidth 8)
    (by omega) (by decide)
  rw [encodePayload, BitVec.or_assoc, BitVec.or_assoc, toNat_fieldAbove_or (trunc2 op) (by omega) (by decide), herr, hfw, hsc]
  simp only [trunc1, trunc2, BitVec.toNat_setWidth]
  omega

/-- PDECOP keeps the byte's top field (R101). -/
theorem toNat_decodeOperation (byte : Byte) : (decodeOperation byte).toNat = byte.toNat / 64 := by
  rw [decodeOperation, BitVec.toNat_setWidth, BitVec.toNat_ushiftRight, Nat.shiftRight_eq_div_pow]
  omega

/-- R102: PDECOP reads back the operation PENC wrote, cut to two bits. -/
theorem decodeOperation_encodePayload (op err fw sc : Byte) :
    decodeOperation (encodePayload op err fw sc) = trunc2 op := by
  apply BitVec.eq_of_toNat_eq
  rw [toNat_decodeOperation, toNat_encodePayload, trunc2, BitVec.toNat_setWidth]
  omega

/-- The four fields of a payload byte: the operation, as PDECOP reads it, and the three that no command decodes (R103). -/
def payloadFields (byte : Byte) : BitVec 2 × BitVec 1 × BitVec 2 × BitVec 3 :=
  (decodeOperation byte, BitVec.ofNat 1 (byte.toNat / 32), BitVec.ofNat 2 (byte.toNat / 8), BitVec.ofNat 3 byte.toNat)

/-- R104: over the operands in range, PENC is the inverse of reading the four fields. -/
theorem encodePayload_eq_iff (f : BitVec 2 × BitVec 1 × BitVec 2 × BitVec 3) (byte : Byte) :
    encodePayload (f.1.setWidth 8) (f.2.1.setWidth 8) (f.2.2.1.setWidth 8) (f.2.2.2.setWidth 8) = byte ↔
      f = payloadFields byte := by
  obtain ⟨op, err, fw, sc⟩ := f
  simp only [payloadFields, Prod.mk.injEq, ← BitVec.toNat_inj, toNat_encodePayload, toNat_decodeOperation,
    BitVec.toNat_setWidth, BitVec.toNat_ofNat]
  omega

/-! ### The obligations -/

/-- Settles O12, by PENC's byte as a sum. -/
theorem pencPacksTheFourFields : Obligations.PencPacksTheFourFields := by
  unfold Obligations.PencPacksTheFourFields
  intro op err fw sc s
  exact ⟨encodePayload op err fw sc, decode_penc_word op err fw sc, exec_of_pureResult rfl s, toNat_encodePayload op err fw sc⟩

/-- Settles O13, by PDECOP's field as a quotient. -/
theorem pdecopReturnsTheTopTwoBits : Obligations.PdecopReturnsTheTopTwoBits := by
  unfold Obligations.PdecopReturnsTheTopTwoBits
  intro byte s
  exact ⟨decodeOperation byte, decode_pdecop_word byte, exec_of_pureResult rfl s, toNat_decodeOperation byte⟩

/-- Settles O14: PDECOP reads the operation back, and the one choice of operands is the byte's four fields. -/
theorem payloadRoundTripAndBijection : Obligations.PayloadRoundTripAndBijection := by
  unfold Obligations.PayloadRoundTripAndBijection
  constructor
  · intro op err fw sc byte s t u ht hport hu
    have hbyte : encodePayload op err fw sc = byte :=
      Result.payloadByte.inj (Option.some.inj ((resultPort_of_exec rfl ht).symm.trans hport))
    rw [resultPort_of_exec rfl hu, pdecopResult, ← hbyte, decodeOperation_encodePayload, BitVec.ofNat_toNat, trunc2]
  · intro byte s
    have hiff (f : BitVec 2 × BitVec 1 × BitVec 2 × BitVec 3) :
        exec (.penc (f.1.setWidth 8) (f.2.1.setWidth 8) (f.2.2.1.setWidth 8) (f.2.2.2.setWidth 8)) s
            = .next { s with resultPort := some (.payloadByte byte) } ↔ f = payloadFields byte := by
      rw [exec_eq_next_iff rfl, pencResult, Result.payloadByte.injEq, encodePayload_eq_iff]
    simp only [hiff, existsUnique_eq]

end Sys2Proof.Machine
end

section
/-! SUPPORT. The Baud Rate Calculator (42_baud_rate.md): the prescaler in closed form (R110, R111), BAUD's run as its three writes in
order (R112), and the word of format R as a sum (R64). -/

namespace Sys2Proof

/-- Format R: two operands of 16 bits above the opcode (R64). -/
theorem decode_baud_word (bitrate clock : BitVec 16) :
    decode (BitVec.ofNat 88 (0x4 + bitrate.toNat * 2 ^ 4 + clock.toNat * 2 ^ 20)) = .ok (.baud bitrate clock) := by
  rw [decode_eq_ok_iff, ← ofNat_or_place clock (by omega) (by decide), ← ofNat_or_place bitrate (by decide) (by decide)]
  rfl

end Sys2Proof

namespace Sys2Proof.Machine

/-! ### The prescaler -/

/-- `q - 1` modulo 64 is `q + 63` modulo 64, q = 0 included (R111). -/
theorem brpCalc_eq (bitrate clock : BitVec 16) : brpCalc bitrate clock = BitVec.ofNat 6 (baudQuotient bitrate clock + 63) := by
  apply BitVec.eq_of_toNat_eq
  rw [brpCalc, ← baudQuotient, BitVec.toNat_ofInt, BitVec.toNat_ofNat]
  omega

theorem toNat_brpCalc (bitrate clock : BitVec 16) : (brpCalc bitrate clock).toNat = (baudQuotient bitrate clock + 63) % 64 := by
  rw [brpCalc_eq, BitVec.toNat_ofNat]

/-- R116: with clock 0 the quotient is 0, and the prescaler wraps to its greatest value. -/
theorem brpCalc_clock_zero (bitrate : BitVec 16) : brpCalc bitrate 0#16 = 63#6 := by
  simp [brpCalc_eq, baudQuotient]

/-! ### The run -/

/-- A run in which no poll fails is a plain run of micro-steps. -/
theorem runUndisturbed_eq_microSteps {n : Nat} {s : State} (h : ∀ j < n, pollFails (microSteps j s) = false) :
    runUndisturbed n s = microSteps n s := by
  induction n generalizing s with
  | zero => rfl
  | succ n ih =>
    have hnow : pollFails s = false := h 0 (Nat.succ_pos n)
    have hlater : ∀ j < n, pollFails (microSteps j (microStep s)) = false := fun j hj => h (j + 1) (by omega)
    simp only [runUndisturbed, hnow, Bool.false_eq_true, if_false, ih hlater, microSteps]

section Run
variable (bitrate clock : BitVec 16) (s : State)

/-- Where BAUD is after `k` of its micro-steps. -/
def baudSeq : Nat → Seq
  | 0 => .baud bitrate clock .s0
  | 1 => .baud bitrate clock .s1
  | 2 => .baud bitrate clock .s2
  | _ + 3 => .idle

/-- BAUD after `k` of its micro-steps: the first `k` of the three writes are done (R112). -/
def baudAfter (k : Nat) : State :=
  { s with
    seq := baudSeq bitrate clock k
    bank := { s.bank with
      brp := if 1 ≤ k then brpCalc bitrate clock else s.bank.brp
      timingA := if 2 ≤ k then s.params.timingA else s.bank.timingA
      timingB := if 3 ≤ k then s.params.timingB else s.bank.timingB } }

theorem baudSeq_eq_idle_iff (k : Nat) : baudSeq bitrate clock k = .idle ↔ 3 ≤ k := by
  match k with
  | 0 | 1 | 2 => simp [baudSeq]
  | k + 3 => simp [baudSeq]

/-- BAUD polls nothing. -/
theorem pollFails_baudAfter (k : Nat) : pollFails (baudAfter bitrate clock s k) = false := by
  match k with
  | 0 | 1 | 2 | _ + 3 => rfl

theorem microStep_baudAfter (k : Nat) : microStep (baudAfter bitrate clock s k) = baudAfter bitrate clock s (k + 1) := by
  match k with
  | 0 =>
    have hfits := setWidth_setWidth_byte (brpCalc bitrate clock) (by decide)
    simp [baudAfter, baudSeq, microStep, microBaud, State.goto, State.write, State.withBank, regWrite, hfits]
  | 1 | 2 => rfl
  | k + 3 => rw [microStep_idle rfl]; simp [baudAfter, baudSeq]

theorem microSteps_baud (k : Nat) : microSteps k (s.goto (.baud bitrate clock .s0)) = baudAfter bitrate clock s k := by
  induction k with
  | zero => rfl
  | succ k ih => rw [microSteps_add, ih, microSteps, microSteps, microStep_baudAfter]

variable {bitrate clock s}

/-- BAUD is accepted with any bitrate but 0 (R116), and its run begins at `S0`. -/
theorem exec_baud_accepted (hi : SeqIdle s) (hb : bitrate ≠ 0#16) :
    exec (.baud bitrate clock) s = .next (blockTurn (s.goto (.baud bitrate clock .s0))) :=
  acceptCommand_accepted hi (if_neg hb)

/-- An undisturbed BAUD runs to its end. -/
theorem exec_baud_undisturbed (hi : SeqIdle s) (ha : Undisturbed s) (hb : bitrate ≠ 0#16) :
    exec (.baud bitrate clock) s = .next (baudAfter bitrate clock s undisturbedBound) := by
  have hpolls (j : Nat) : pollFails (microSteps j (s.goto (.baud bitrate clock .s0))) = false := by
    rw [microSteps_baud, pollFails_baudAfter]
  rw [exec_baud_accepted hi hb, blockTurn, State.goto_agenda, ha]
  simp only [runUndisturbed_eq_microSteps fun j _ => hpolls j, microSteps_baud]

/-- In a turn of `k` micro-steps BAUD does the first `k` of its own. -/
theorem exec_baud_granted {k : Nat} {rest : List Turn} (hi : SeqIdle s) (ha : s.agenda = .block k :: rest)
    (hb : bitrate ≠ 0#16) :
    exec (.baud bitrate clock) s = .next (baudAfter bitrate clock { s with agenda := rest } k) := by
  rw [exec_baud_accepted hi hb, blockTurn, State.goto_agenda, ha, ← microSteps_baud]
  rfl

end Run

/-! ### The obligations -/

/-- Settles O16, from the run in closed form. -/
theorem baudWritesTheThreeTimingRegisters : Obligations.BaudWritesTheThreeTimingRegisters := by
  unfold Obligations.BaudWritesTheThreeTimingRegisters
  intro bitrate clock s hi hb brp
  refine ⟨decode_baud_word bitrate clock, fun ha => ?_, fun k rest ha => ?_⟩
  · have hend : baudAfter bitrate clock s undisturbedBound = { s with
        bank := { s.bank with brp := brp, timingA := s.params.timingA, timingB := s.params.timingB } } := by
      simp [baudAfter, baudSeq, undisturbedBound, brpCalc_eq, brp, hi]
    rw [exec_baud_undisturbed hi ha hb, hend]
  · refine ⟨_, exec_baud_granted hi ha hb, ?_, baudSeq_eq_idle_iff bitrate clock k⟩
    simp only [baudAfter, brpCalc_eq, brp]

/-- Settles O17: the three ranges are the cases of `q + 63` modulo 64. -/
theorem prescalerWrapsModulo64 : Obligations.PrescalerWrapsModulo64 := by
  unfold Obligations.PrescalerWrapsModulo64
  intro bitrate clock s hi ha hb
  have hbrp : (baudAfter bitrate clock s undisturbedBound).bank.brp.toNat = (baudQuotient bitrate clock + 63) % 64 :=
    toNat_brpCalc bitrate clock
  refine ⟨_, exec_baud_undisturbed hi ha hb, ?_, ?_, ?_⟩ <;> omega

/-- Settles O18: the refusal is decided by the bitrate alone. -/
theorem baudIsRefusedExactlyAtBitrateZero : Obligations.BaudIsRefusedExactlyAtBitrateZero := by
  unfold Obligations.BaudIsRefusedExactlyAtBitrateZero
  intro bitrate clock s hi
  refine ⟨fun hb => acceptCommand_refused hi (if_pos hb), fun hb => ⟨_, exec_baud_accepted hi hb, ?_⟩⟩
  rintro rfl ha
  have hturn : blockTurn (s.goto (.baud bitrate 0#16 .s0)) = baudAfter bitrate 0#16 s undisturbedBound :=
    Host.Outcome.next.inj ((exec_baud_accepted hi hb).symm.trans (exec_baud_undisturbed hi ha hb))
  rw [hturn]
  exact brpCalc_clock_zero bitrate

end Sys2Proof.Machine
end

section
/-! SUPPORT. What every piece of a command's run keeps, as an induction over its micro-steps, and the frames of BAUD, SETMODE and AWAIT
(R112, R124, R155). -/

namespace Sys2Proof.Machine

section Induct
variable {i : Instr} {P : State → Prop} (free : ∀ u q rest, P u → P { u with seq := q, agenda := rest })
  (next : ∀ u, commandOf u.seq = some i → P u → P (microStep u))
include free next

/-- A property that SEQ and the agenda do not decide and the micro-steps of the command `i` keep is kept by the block's turn at `i`. -/
theorem blockTurn_induct_command {s : State} (hq : commandOf s.seq = some i) (start : P s) : P (blockTurn s) := by
  have hturn := blockTurn_induct (P := fun u => P u ∧ (u.seq = .idle ∨ commandOf u.seq = some i))
    (fun u rest ⟨hu, hq⟩ => ⟨free u u.seq rest hu, hq⟩)
    (fun u ⟨hu, hq⟩ => by
      rcases hq with hq | hq
      · rw [microStep_idle hq]; exact ⟨hu, .inl hq⟩
      · exact ⟨next u hq hu, hq ▸ microStep_command u⟩)
    s ⟨start, .inr hq⟩
  exact hturn.1

/-- Such a property is kept by every piece of a stateful command's run, whatever the turns. -/
theorem works_induct {s t : State} (h : Works i s t) (hstateful : i.isPure = false) (start : P s) : P t := by
  rcases h with h | ⟨hq, rfl⟩
  · obtain ⟨first, refusal, hfirst, e⟩ := exec_stateful hstateful s
    rw [e] at h
    rcases acceptCommand_cases first refusal s with ⟨-, ha⟩ | ⟨-, r, -, ha⟩ | ⟨-, -, ha⟩ <;> cases ha.symm.trans h
    · exact start
    · exact blockTurn_induct_command free next hfirst (free s first s.agenda start)
  · exact blockTurn_induct_command free next hq start

end Induct

/-- AWAIT's micro-steps touch SEQ and `ABORT_REQ`. -/
theorem microAwait_frame (s : State) (l : AwaitLabel) :
    let t := microAwait l s
    t = { s with seq := t.seq, bank := { s.bank with abortReq := t.bank.abortReq } } := by
  cases l with
  | a0 => cases htx : txreqSet s <;> simp [microAwait, microWait, htx, State.goto]
  | a1 | a2 => rfl

section Frames
variable {s t : State}

theorem works_baud_frame {bitrate clock : BitVec 16} (h : Works (.baud bitrate clock) s t) :
    ∃ q rest brp a b, t = { s with
      seq := q, agenda := rest, bank := { s.bank with brp := brp, timingA := a, timingB := b } } := by
  apply works_induct (h := h) (hstateful := rfl)
  case start => exact ⟨_, _, _, _, _, rfl⟩
  case free => rintro _ q rest ⟨_, _, brp, a, b, rfl⟩; exact ⟨q, rest, brp, a, b, rfl⟩
  case next =>
    rintro _ hq ⟨q, rest, brp, a, b, rfl⟩
    cases q with
    | baud _ _ l => cases hq; exact ⟨_, _, _, _, _, microBaud_frame _ bitrate clock l⟩
    | _ => cases hq

theorem works_setmode_frame {target : Byte} (h : Works (.setmode target) s t) :
    ∃ q rest m, t = { s with seq := q, agenda := rest, bank := { s.bank with modeReq := m } } := by
  apply works_induct (h := h) (hstateful := rfl)
  case start => exact ⟨_, _, _, rfl⟩
  case free => rintro _ q rest ⟨_, _, m, rfl⟩; exact ⟨q, rest, m, rfl⟩
  case next =>
    rintro _ hq ⟨q, rest, m, rfl⟩
    cases q with
    | setmode _ l => cases hq; exact ⟨_, _, _, microSetmode_frame _ target l⟩
    | _ => cases hq

theorem works_await_frame (h : Works .await s t) :
    ∃ q rest a, t = { s with seq := q, agenda := rest, bank := { s.bank with abortReq := a } } := by
  apply works_induct (h := h) (hstateful := rfl)
  case start => exact ⟨_, _, _, rfl⟩
  case free => rintro _ q rest ⟨_, _, a, rfl⟩; exact ⟨q, rest, a, rfl⟩
  case next =>
    rintro _ hq ⟨q, rest, a, rfl⟩
    cases q with
    | await l => exact ⟨_, _, _, microAwait_frame _ l⟩
    | _ => cases hq

end Frames

/-! ### The obligation -/

/-- Settles O58, by the frame of each command's micro-steps. -/
theorem framesOfBaudSetmodeAndAwait : Obligations.FramesOfBaudSetmodeAndAwait := by
  unfold Obligations.FramesOfBaudSetmodeAndAwait
  intro s t
  refine ⟨fun bitrate clock h => ?_, fun target h => ?_, fun h => ?_⟩
  · obtain ⟨q, rest, brp, a, b, rfl⟩ := works_baud_frame h
    rfl
  · obtain ⟨q, rest, m, rfl⟩ := works_setmode_frame h
    rfl
  · obtain ⟨q, rest, a, rfl⟩ := works_await_frame h
    rfl

end Sys2Proof.Machine
end

section
/-! SUPPORT. Runs, and a command in progress: what a step of a busy block can be (R60, R191), the command a turn of the block goes on
with, and that no micro-step depends on the turns to come (R46) or writes `MODE_STAT` (R28). -/

namespace Sys2Proof.Machine

/-! ### Runs -/

theorem runsTo_succ_iff {k : Nat} {s t : State} : RunsTo (k + 1) s t ↔ ∃ u, step s = .next u ∧ RunsTo k u t := by
  have hstep : core.step s = step s := rfl
  simp only [RunsTo, Host.Core.run, hstep]
  cases step s <;> simp

/-- A run goes on with one more step. -/
theorem runsTo_snoc {k : Nat} {s t u : State} (h : RunsTo k s t) (hu : step t = .next u) : RunsTo (k + 1) s u := by
  induction k generalizing s with
  | zero => cases h; exact runsTo_succ_iff.2 ⟨u, hu, rfl⟩
  | succ k ih =>
    obtain ⟨v, hv, hrest⟩ := runsTo_succ_iff.1 h
    exact runsTo_succ_iff.2 ⟨v, hv, ih hrest⟩

/-! ### A step of a busy block -/

/-- With no other agent's turn first and nothing the port takes, a step is the block's turn. -/
theorem step_of_blockTurnNext {s : State} (h : BlockTurnNext s) : step s = .next (blockTurn s) := by
  obtain ⟨hno, hfetch⟩ := h
  unfold step
  split
  · next a rest e => exact absurd e (hno a rest)
  · rw [hfetch]

/-- While a command is in progress a step is another agent's turn, a pure operation's result, or the block's turn, and none of them is
refused (R60, R191). -/
theorem step_busy_cases {s : State} (h : s.seq ≠ .idle) :
    (∃ a rest, s.agenda = .agent a :: rest ∧ step s = .next (perform a { s with agenda := rest })) ∨
    (∃ later res, step s = .next { s with port := later, resultPort := res }) ∨
    (BlockTurnNext s ∧ step s = .next (blockTurn s)) := by
  by_cases hagent : ∃ a rest, s.agenda = .agent a :: rest
  · obtain ⟨a, rest, ha⟩ := hagent
    exact .inl ⟨a, rest, ha, by simp only [step, ha]⟩
  · have hno : ∀ a rest, s.agenda ≠ .agent a :: rest := fun a rest e => hagent ⟨a, rest, e⟩
    refine .inr ?_
    cases hf : fetchWord s with
    | none => exact .inr ⟨⟨hno, hf⟩, step_of_blockTurnNext ⟨hno, hf⟩⟩
    | some taken =>
      obtain ⟨d, s'⟩ := taken
      obtain ⟨w, later, -, rfl, rfl, hi | ⟨i, hd, hpure⟩⟩ := fetchWord_eq_some.1 hf
      · exact absurd hi h
      · rw [hd] at hf
        obtain ⟨r, -, hexec⟩ := exec_pure hpure { s with port := later }
        exact .inl ⟨later, some r, (step_of_fetchWord_ok hno hf).trans hexec⟩

/-! ### The command a turn goes on with -/

/-- Micro-steps go on with the command in progress, or end it. -/
theorem microSteps_command (k : Nat) (s : State) :
    (microSteps k s).seq = .idle ∨ commandOf (microSteps k s).seq = commandOf s.seq := by
  apply microSteps_induct (R := fun s t => t.seq = .idle ∨ commandOf t.seq = commandOf s.seq)
  case base => exact fun _ => .inr rfl
  case next =>
    rintro s t (hi | hc)
    · exact .inl (by rw [microStep_idle hi, hi])
    · exact hc ▸ microStep_command t

/-- So does the block's turn. -/
theorem blockTurn_command (s : State) : (blockTurn s).seq = .idle ∨ commandOf (blockTurn s).seq = commandOf s.seq := by
  rcases blockTurn_cases s with ⟨-, k, -, e⟩ | ⟨k, rest, -, e⟩ | ⟨a, rest, -, e⟩
  · rw [e]; exact microSteps_command k s
  · rw [e]; exact microSteps_command k _
  · rw [e]; exact .inr rfl

/-- A block that is busy after some micro-steps was at the same command before them. -/
theorem commandOf_of_microSteps {k : Nat} {s : State} {i : Instr} (h : commandOf (microSteps k s).seq = some i) :
    commandOf s.seq = some i := by
  rcases microSteps_command k s with hi | hc
  · rw [hi] at h; cases h
  · rw [← hc, h]

theorem ne_idle_of_commandOf {q : Seq} {i : Instr} (h : commandOf q = some i) : q ≠ .idle := by
  rintro rfl
  cases h

/-- Once at IDLE the block stays there (R54). -/
theorem microSteps_idle_of_le {j k : Nat} {s : State} (hjk : j ≤ k) (h : (microSteps j s).seq = .idle) :
    (microSteps k s).seq = .idle := by
  obtain ⟨n, rfl⟩ := Nat.exists_eq_add_of_le hjk
  rw [microSteps_add, microSteps_idle n h, h]

theorem runUndisturbed_idle (n : Nat) {s : State} (h : s.seq = .idle) : runUndisturbed n s = s := by
  obtain ⟨k, -, e⟩ := runUndisturbed_eq n s
  rw [e, microSteps_idle k h]

/-! ### What micro-steps leave -/

theorem microSteps_agenda (k : Nat) (s : State) : (microSteps k s).agenda = s.agenda := by
  apply microSteps_induct (R := fun s t => t.agenda = s.agenda)
  case base => exact fun _ => rfl
  case next =>
    intro s t h
    obtain ⟨-, -, -, -, hagenda⟩ := microStep_frame t
    exact hagenda.trans h

/-- The block never writes `MODE_STAT` (R28). -/
theorem microStep_modeStat (s : State) : (microStep s).bank.modeStat = s.bank.modeStat := by
  cases hc : commandOf s.seq with
  | none => rw [microStep_idle (commandOf_eq_none hc)]
  | some i =>
    have hread : regRead (microStep s).bank .modeStat = regRead s.bank .modeStat := by
      refine ((microStep_ownChanges s hc).regs .modeStat).resolve_right ?_
      cases i <;> simp [blockWrites, blockWrites.filterRegister, blockWrites.transmitRegister]
    have hbits := congrArg (BitVec.setWidth 3) hread
    simpa only [regRead, setWidth_setWidth_byte _ (show 3 ≤ 8 by decide)] using hbits

theorem microSteps_modeStat (k : Nat) (s : State) : (microSteps k s).bank.modeStat = s.bank.modeStat :=
  microSteps_induct (R := fun s t => t.bank.modeStat = s.bank.modeStat) (fun _ => rfl)
    (fun _ t h => (microStep_modeStat t).trans h) k s

/-! ### The turns to come -/

/-- The state with other turns to come. -/
def State.withAgenda (s : State) (rest : List Turn) : State := { s with agenda := rest }

section WithAgenda
variable (s : State) (rest : List Turn)

@[simp] theorem State.withAgenda_seq : (s.withAgenda rest).seq = s.seq := rfl

theorem microWait_withAgenda (l : AwaitLabel) :
    microWait l (s.withAgenda rest) = ((microWait l s).1.withAgenda rest, (microWait l s).2) := by
  cases l <;> rfl

theorem microMessage_withAgenda (m : Message) (l : SendLabel) :
    microMessage m l (s.withAgenda rest) = ((microMessage m l s).1.withAgenda rest, (microMessage m l s).2) := by
  cases l with
  | wait l => simp only [microMessage, microWait_withAgenda]; rcases microWait l s with ⟨t, _ | l'⟩ <;> rfl
  | _ => rfl

/-- No micro-step depends on the turns to come. -/
theorem microStep_withAgenda : microStep (s.withAgenda rest) = (microStep s).withAgenda rest := by
  cases e : s.seq <;> simp only [microStep, State.withAgenda_seq, e]
  case baud l | init l | setmode l | fstrict l => cases l <;> rfl
  case ffirst l =>
    cases l with
    | strict l => cases l <;> rfl
    | s8 | s9 => rfl
  case await l => simp only [microAwait, microWait_withAgenda]; rcases microWait l s with ⟨t, _ | l'⟩ <;> rfl
  case send m l => simp only [microSend, microMessage_withAgenda]; rcases microMessage m l s with ⟨t, _ | l'⟩ <;> rfl
  case sendsync m l =>
    cases l with
    | send l => simp only [microSendsync, microMessage_withAgenda]; rcases microMessage m l s with ⟨t, _ | l'⟩ <;> rfl
    | wait l => simp only [microSendsync, microWait_withAgenda]; rcases microWait l s with ⟨t, _ | l'⟩ <;> rfl

theorem microSteps_withAgenda (k : Nat) : microSteps k (s.withAgenda rest) = (microSteps k s).withAgenda rest := by
  induction k generalizing s with
  | zero => rfl
  | succ k ih => rw [microSteps, microSteps, microStep_withAgenda, ih]

variable {s rest}

/-- A turn of `k` micro-steps takes them and gives up its entry of the agenda. -/
theorem blockTurn_granted {k : Nat} (ha : s.agenda = .block k :: rest) : blockTurn s = (microSteps k s).withAgenda rest := by
  rw [← microSteps_withAgenda, blockTurn, ha]
  rfl

end WithAgenda

end Sys2Proof.Machine
end

section
/-! SUPPORT. INIT (43_init_and_mode.md): its run as its five writes in order (R120, R121), its frame (R123), and the word of format I
(R64). -/

namespace Sys2Proof

/-- Format I: one bit above the opcode (R64). -/
theorem decode_init_word (r : Routing) : decode (BitVec.ofNat 88 (0x5 + r.code.toNat * 2 ^ 4)) = .ok (.init r) := by
  rw [decode_eq_ok_iff]
  cases r <;> rfl

end Sys2Proof

namespace Sys2Proof.Machine

/-! ### The run -/

section Run
variable (r : Routing) (s : State)

/-- Where INIT is after `k` of its micro-steps. -/
def initSeq : Nat → Seq
  | 0 => .init r .s0
  | 1 => .init r .s1
  | 2 => .init r .s2
  | 3 => .init r .s3
  | 4 => .init r .s4
  | _ + 5 => .idle

/-- INIT after `k` of its micro-steps: the first `k` of the five updates are done (R120). -/
def initAfter (k : Nat) : State :=
  { s with
    seq := initSeq r k
    bank := { setPins s.bank r ⟨if 1 ≤ k then .output else (pins s.bank r).tx, if 2 ≤ k then .input else (pins s.bank r).rx⟩ with
      driveEn := if 3 ≤ k then 1#1 else s.bank.driveEn }
    tsCode := if 4 ≤ k then .nothingSent else s.tsCode
    fsc := if 5 ≤ k then 0#8 else s.fsc
    initDone := if 5 ≤ k then true else s.initDone }

/-- INIT at its end, from a state at IDLE (R121). -/
def initEnd : State :=
  { s with
    bank := { setPins s.bank r ⟨.output, .input⟩ with driveEn := 1#1 }
    tsCode := .nothingSent, fsc := 0#8, initDone := true }

theorem initSeq_eq_idle_iff (k : Nat) : initSeq r k = .idle ↔ 5 ≤ k := by
  match k with
  | 0 | 1 | 2 | 3 | 4 => simp [initSeq]
  | k + 5 => simp [initSeq]

/-- INIT polls nothing. -/
theorem pollFails_initAfter (k : Nat) : pollFails (initAfter r s k) = false := by
  match k with
  | 0 | 1 | 2 | 3 | 4 | _ + 5 => rfl

theorem initAfter_zero : initAfter r s 0 = s.goto (.init r .s0) := by
  cases r <;> rfl

theorem microStep_initAfter (k : Nat) : microStep (initAfter r s k) = initAfter r s (k + 1) := by
  match k with
  | 0 | 1 | 2 | 3 | 4 => cases r <;> rfl
  | k + 5 => rw [microStep_idle rfl]; simp [initAfter, initSeq]

theorem microSteps_init (k : Nat) : microSteps k (s.goto (.init r .s0)) = initAfter r s k := by
  induction k with
  | zero => exact (initAfter_zero r s).symm
  | succ k ih => rw [microSteps_add, ih, microSteps, microSteps, microStep_initAfter]

variable {r s}

theorem initAfter_undisturbedBound (hi : SeqIdle s) : initAfter r s undisturbedBound = initEnd r s := by
  simp [initAfter, initEnd, initSeq, undisturbedBound, hi]

/-- INIT is accepted in every state at IDLE (R122), and its run begins at `S0`. -/
theorem exec_init_accepted (hi : SeqIdle s) : exec (.init r) s = .next (blockTurn (s.goto (.init r .s0))) :=
  acceptCommand_accepted hi rfl

/-- An undisturbed INIT runs to its end. -/
theorem exec_init_undisturbed (hi : SeqIdle s) (ha : Undisturbed s) : exec (.init r) s = .next (initEnd r s) := by
  have hpolls (j : Nat) : pollFails (microSteps j (s.goto (.init r .s0))) = false := by
    rw [microSteps_init, pollFails_initAfter]
  rw [exec_init_accepted hi, blockTurn, State.goto_agenda, ha]
  simp only [runUndisturbed_eq_microSteps fun j _ => hpolls j, microSteps_init, initAfter_undisturbedBound hi]

/-- In a turn of `k` micro-steps INIT does the first `k` of its own. -/
theorem exec_init_granted {k : Nat} {rest : List Turn} (hi : SeqIdle s) (ha : s.agenda = .block k :: rest) :
    exec (.init r) s = .next (initAfter r { s with agenda := rest } k) := by
  rw [exec_init_accepted hi, blockTurn, State.goto_agenda, ha, ← microSteps_init]
  rfl

/-- A second INIT finds every update of the first one made. -/
theorem initEnd_initEnd : initEnd r (initEnd r s) = initEnd r s := by
  cases r <;> rfl

end Run

/-! ### The frame -/

/-- Two writes of the pins of one routing and of `DRIVE_EN`: the second alone counts (R45). -/
theorem setPins_driveEn_setPins (b : Bank) (r : Routing) (p q : PinPair) (d e : BitVec 1) :
    { setPins { setPins b r p with driveEn := d } r q with driveEn := e } = { setPins b r q with driveEn := e } := by
  cases r <;> rfl

theorem works_init_frame {r : Routing} {s t : State} (h : Works (.init r) s t) :
    ∃ q rest c v done p d, t = { s with
      seq := q, agenda := rest, tsCode := c, fsc := v, initDone := done
      bank := { setPins s.bank r p with driveEn := d } } := by
  apply works_induct (h := h) (hstateful := rfl)
  case start => exact ⟨_, _, _, _, _, pins s.bank r, _, by rw [setPins_self]⟩
  case free => rintro _ q rest ⟨_, _, c, v, done, p, d, rfl⟩; exact ⟨q, rest, c, v, done, p, d, rfl⟩
  case next =>
    rintro _ hq ⟨q, rest, c, v, done, p, d, rfl⟩
    cases q with
    | init _ l =>
      cases hq
      have hframe := microInit_frame { s with
        seq := .init r l, agenda := rest, tsCode := c, fsc := v, initDone := done
        bank := { setPins s.bank r p with driveEn := d } } r l
      simp only [setPins_driveEn_setPins] at hframe
      exact ⟨_, _, _, _, _, _, _, hframe⟩
    | _ => cases hq

/-! ### The obligations -/

/-- Settles O19, from the run in closed form. -/
theorem initTakesItsFiveSteps : Obligations.InitTakesItsFiveSteps := by
  unfold Obligations.InitTakesItsFiveSteps
  intro r s hi
  refine ⟨decode_init_word r, exec_init_undisturbed hi, fun k rest ha => ?_⟩
  exact ⟨_, exec_init_granted hi ha, rfl, initSeq_eq_idle_iff r k⟩

/-- Settles O20: the second INIT runs from the end of the first. -/
theorem initIsIdempotent : Obligations.InitIsIdempotent := by
  unfold Obligations.InitIsIdempotent
  intro r s hi ha
  have hagain : exec (.init r) (initEnd r s) = .next (initEnd r (initEnd r s)) := exec_init_undisturbed hi ha
  exact ⟨initEnd r s, exec_init_undisturbed hi ha, by rw [hagain, initEnd_initEnd]⟩

/-- Settles O21, by the frame of INIT's micro-steps. -/
theorem initWritesNothingElse : Obligations.InitWritesNothingElse := by
  unfold Obligations.InitWritesNothingElse
  intro r s t h
  obtain ⟨q, rest, c, v, done, p, d, rfl⟩ := works_init_frame h
  refine ⟨rfl, ?_⟩
  cases r <;> rfl

end Sys2Proof.Machine
end

section
/-! SUPPORT. SETMODE (43_init_and_mode.md): the targets that name a mode (R129), its reads of `MODE_STAT` and its request (R124 to R126),
and its run, which ends exactly with a read that returns the target (R127, R192). -/

namespace Sys2Proof

/-- Format M: one byte above the opcode (R64). -/
theorem decode_setmode_word (target : Byte) : decode (BitVec.ofNat 88 (0x6 + target.toNat * 2 ^ 4)) = .ok (.setmode target) := by
  rw [decode_eq_ok_iff, ← ofNat_or_place target (by decide) (by decide)]
  rfl

/-- The four mode codes among the values of three bits (R29). -/
theorem isSome_ofCode?_iff (c : BitVec 3) :
    (Mode.ofCode? c).isSome = true ↔ c.toNat = 0 ∨ c.toNat = 1 ∨ c.toNat = 2 ∨ c.toNat = 4 := by
  revert c
  decide

theorem legalTarget_iff (target : Byte) : legalTarget target = true ↔
    target.toNat % 8 = 0 ∨ target.toNat % 8 = 1 ∨ target.toNat % 8 = 2 ∨ target.toNat % 8 = 4 := by
  rw [legalTarget, isSome_ofCode?_iff, trunc3, BitVec.toNat_setWidth]

end Sys2Proof

namespace Sys2Proof.Machine

theorem modeReports_iff (target : Byte) (s : State) : modeReports target s = true ↔ ModeIs (trunc3 target) s := by
  simp [modeReports]

theorem commandOf_eq_setmode_iff {q : Seq} {target : Byte} :
    commandOf q = some (.setmode target) ↔ ∃ l, q = .setmode target l := by
  cases q <;> simp [commandOf]

/-! ### The reads and the request -/

/-- SETMODE(target) is at a read of `MODE_STAT`, S0 or S3 (R124). -/
def AtModeRead (target : Byte) (s : State) : Prop := s.seq = .setmode target .s0 ∨ s.seq = .setmode target .s3

section Read
variable {target : Byte} {s : State}

/-- A read ends the command, or sends it to the request. -/
theorem AtModeRead.microStep_eq (h : AtModeRead target s) :
    microStep s = s.goto (if modeReports target s then .idle else .setmode target .s1) := by
  rcases h with h | h <;> simp only [microStep, h, microSetmode]

theorem AtModeRead.pollFails_eq (h : AtModeRead target s) : pollFails s = !modeReports target s := by
  rcases h with h | h <;> simp only [pollFails, h]

/-- An undisturbed turn that begins at a read is that read alone: the command has ended or the poll has failed. -/
theorem AtModeRead.blockTurn_eq (h : AtModeRead target s) (ha : Undisturbed s) :
    blockTurn s = s.goto (if modeReports target s then .idle else .setmode target .s1) := by
  have hturn : blockTurn s = if pollFails s then microStep s else runUndisturbed 15 (microStep s) := by
    simp only [blockTurn, ha]
    rfl
  rw [hturn, h.pollFails_eq, h.microStep_eq]
  cases modeReports target s with
  | true =>
    simp only [Bool.not_true, Bool.false_eq_true, if_false, if_true]
    exact runUndisturbed_idle 15 (State.goto_seq s .idle)
  | false => rfl

/-- A micro-step ends SETMODE exactly when it is a read that returns the target (R127). -/
theorem microStep_setmode_idle_iff (h : commandOf s.seq = some (.setmode target)) :
    (microStep s).seq = .idle ↔ AtModeRead target s ∧ ModeIs (trunc3 target) s := by
  obtain ⟨l, hl⟩ := commandOf_eq_setmode_iff.1 h
  cases l with
  | s0 | s3 => simp [microStep, hl, microSetmode, AtModeRead, modeReports_iff]
  | s1 | s2 => simp [microStep, hl, microSetmode, AtModeRead]

/-- When `MODE_STAT` is the target, no poll of SETMODE fails. -/
theorem pollFails_setmode (hm : ModeIs (trunc3 target) s)
    (h : s.seq = .idle ∨ commandOf s.seq = some (.setmode target)) : pollFails s = false := by
  rcases h with h | h
  · simp only [pollFails, h]
  · obtain ⟨l, hl⟩ := commandOf_eq_setmode_iff.1 h
    cases l with
    | s0 | s3 => simp only [pollFails, hl, (modeReports_iff target s).2 hm, Bool.not_true]
    | s1 | s2 => simp only [pollFails, hl]

/-- Where SETMODE stands after its request: `MODE_REQ` is written, and the next read is S3 (R126, R128). -/
def setmodeRequested (target : Byte) (s : State) : State :=
  { s with seq := .setmode target .s3, bank := { s.bank with modeReq := trunc3 target } }

/-- In another mode the first three micro-steps are the first read, the request and the no-op cycles. -/
theorem microSteps_setmode_request (hm : ¬ ModeIs (trunc3 target) s) :
    microSteps 3 (s.goto (.setmode target .s0)) = setmodeRequested target s := by
  have hfits := setWidth_setWidth_byte (trunc3 target) (by decide)
  simp [microSteps, microStep, microSetmode, modeReports, hm, setmodeRequested, State.goto, State.write, State.withBank,
    regWrite, hfits]

/-- SETMODE is accepted with a target that names a mode (R129), and its run begins at `S0`. -/
theorem exec_setmode_accepted (hi : SeqIdle s) (ht : legalTarget target = true) :
    exec (.setmode target) s = .next (blockTurn (s.goto (.setmode target .s0))) :=
  acceptCommand_accepted hi (if_pos ht)

theorem exec_setmode_refused (hi : SeqIdle s) (ht : ¬ legalTarget target = true) :
    exec (.setmode target) s = .refused .setmodeReservedTarget :=
  acceptCommand_refused hi (if_neg ht)

/-- In another mode, with a turn of three micro-steps, SETMODE has made its request. -/
theorem exec_setmode_requested {rest : List Turn} (hi : SeqIdle s) (ht : legalTarget target = true)
    (hm : ¬ ModeIs (trunc3 target) s) (ha : s.agenda = .block 3 :: rest) :
    exec (.setmode target) s = .next ((setmodeRequested target s).withAgenda rest) := by
  rw [exec_setmode_accepted hi ht, blockTurn_granted (s := s.goto (.setmode target .s0)) ha, microSteps_setmode_request hm]

/-- The request is made and the peripheral has reported the mode `m` (R51), with no turn of another agent left. -/
def setmodeReported (target : Byte) (m : BitVec 3) (s : State) : State :=
  { setmodeRequested target s with agenda := [], bank := { (setmodeRequested target s).bank with modeStat := m } }

/-- After its request SETMODE reads what the peripheral reports, and ends or goes back to the request (R126). -/
theorem runsTo_setmode_reported {m : BitVec 3} (hport : PortWaits s) :
    RunsTo 2 ((setmodeRequested target s).withAgenda [.agent (.periphReportsMode m)])
      ((setmodeReported target m s).goto (if m = trunc3 target then .idle else .setmode target .s1)) := by
  have hreport : step ((setmodeRequested target s).withAgenda [.agent (.periphReportsMode m)]) =
      .next (setmodeReported target m s) := by
    have hfits := setWidth_setWidth_byte m (by decide)
    rw [State.withAgenda, step_agentTurn]
    simp only [perform, State.write, State.withBank, regWrite, hfits, setmodeReported]
  have hnext : BlockTurnNext (setmodeReported target m s) :=
    ⟨fun _ _ e => List.cons_ne_nil _ _ e.symm, fetchWord_eq_none.2 (.inr ⟨Seq.noConfusion, hport⟩)⟩
  have hread : AtModeRead target (setmodeReported target m s) := .inr rfl
  have hturn := step_of_blockTurnNext hnext
  rw [hread.blockTurn_eq rfl] at hturn
  simp only [modeReports_iff] at hturn
  exact runsTo_snoc (runsTo_snoc rfl hreport) hturn

end Read

/-! ### The run -/

section Run
variable {target : Byte} {s t : State}

/-- Micro-steps reach the end of SETMODE exactly when one of them is a read that returns the target. -/
theorem microSteps_setmode_idle_iff (k : Nat) (h : commandOf s.seq = some (.setmode target)) :
    (microSteps k s).seq = .idle ↔
      ∃ j < k, AtModeRead target (microSteps j s) ∧ ModeIs (trunc3 target) (microSteps j s) := by
  induction k generalizing s with
  | zero => simp [microSteps, ne_idle_of_commandOf h]
  | succ k ih =>
    simp only [Nat.exists_lt_succ_left, microSteps]
    by_cases hi : (microStep s).seq = .idle
    · simp only [microSteps_idle k hi, hi, true_iff]
      exact .inl ((microStep_setmode_idle_iff h).1 hi)
    · have hnext : commandOf (microStep s).seq = some (.setmode target) := ((microStep_command s).resolve_left hi).trans h
      have hnow : ¬ (AtModeRead target s ∧ ModeIs (trunc3 target) s) := fun hr => hi ((microStep_setmode_idle_iff h).2 hr)
      simp only [ih hnext, hnow, false_or]

/-- When `MODE_STAT` is the target, an undisturbed SETMODE is a plain run of micro-steps. -/
theorem runUndisturbed_setmode (n : Nat) (h : commandOf s.seq = some (.setmode target)) (hm : ModeIs (trunc3 target) s) :
    runUndisturbed n s = microSteps n s := by
  apply runUndisturbed_eq_microSteps
  intro j _
  have hstat : ModeIs (trunc3 target) (microSteps j s) := (microSteps_modeStat j s).trans hm
  exact pollFails_setmode hstat ((microSteps_command j s).imp_right (·.trans h))

/-- The block's turn ends SETMODE exactly when one of the turn's reads returns the target (R127). -/
theorem blockTurn_setmode_idle_iff (h : commandOf s.seq = some (.setmode target)) :
    (blockTurn s).seq = .idle ↔
      ∃ j < turnLength s, AtModeRead target (microSteps j s) ∧ ModeIs (trunc3 target) (microSteps j s) := by
  rcases ha : s.agenda with _ | ⟨_ | k, rest⟩
  case nil =>
    simp only [blockTurn, turnLength, ha]
    constructor
    · intro hi
      obtain ⟨k, hk, e⟩ := runUndisturbed_eq undisturbedBound s
      exact (microSteps_setmode_idle_iff _ h).1 (microSteps_idle_of_le hk (e ▸ hi))
    · rintro ⟨j, hj, hread, hm⟩
      rw [runUndisturbed_setmode _ h ((microSteps_modeStat j s).symm.trans hm)]
      exact (microSteps_setmode_idle_iff _ h).2 ⟨j, hj, hread, hm⟩
  case cons.agent => simp [blockTurn, turnLength, ha, ne_idle_of_commandOf h]
  case cons.block =>
    rw [blockTurn_granted ha, State.withAgenda_seq, turnLength, ha]
    exact microSteps_setmode_idle_iff k h

/-- A step from SETMODE in progress goes on with it, unless a read in it returns the target. -/
theorem step_setmode_cases (h : commandOf s.seq = some (.setmode target)) (hstep : step s = .next t) :
    commandOf t.seq = some (.setmode target) ∨ ReadReturnsTarget target s := by
  rcases step_busy_cases (ne_idle_of_commandOf h) with ⟨a, rest, -, e⟩ | ⟨later, res, e⟩ | ⟨hnext, e⟩ <;>
    cases e.symm.trans hstep
  · obtain ⟨-, hseq, -⟩ := perform_frame { s with agenda := rest } a
    exact .inl ((congrArg commandOf hseq).trans h)
  · exact .inl h
  · by_cases hi : (blockTurn s).seq = .idle
    · exact .inr ⟨hnext, (blockTurn_setmode_idle_iff h).1 hi⟩
    · exact .inl (((blockTurn_command s).resolve_left hi).trans h)

/-- A run that ends SETMODE has a read that returns the target. -/
theorem readReturnsTarget_of_runsTo_idle {k : Nat} (h : commandOf s.seq = some (.setmode target)) (hrun : RunsTo k s t)
    (hi : SeqIdle t) : ∃ j u, RunsTo j s u ∧ ReadReturnsTarget target u := by
  induction k generalizing s with
  | zero => cases hrun; exact absurd hi (ne_idle_of_commandOf h)
  | succ k ih =>
    obtain ⟨v, hv, hrest⟩ := runsTo_succ_iff.1 hrun
    rcases step_setmode_cases h hv with hc | hread
    · obtain ⟨j, u, hj, hread⟩ := ih hc hrest
      exact ⟨j + 1, u, runsTo_succ_iff.2 ⟨v, hv, hj⟩, hread⟩
    · exact ⟨0, s, rfl, hread⟩

/-- The step in which a read returns the target ends SETMODE. -/
theorem step_idle_of_readReturnsTarget (h : ReadReturnsTarget target s) : ∃ t, step s = .next t ∧ SeqIdle t := by
  obtain ⟨hnext, j, hj, hread, hm⟩ := h
  have hc : commandOf s.seq = some (.setmode target) :=
    commandOf_of_microSteps (k := j) (commandOf_eq_setmode_iff.2 (hread.elim (⟨_, ·⟩) (⟨_, ·⟩)))
  exact ⟨blockTurn s, step_of_blockTurnNext hnext, (blockTurn_setmode_idle_iff hc).2 ⟨j, hj, hread, hm⟩⟩

/-- SETMODE is in progress, no other agent has a turn left, and `MODE_STAT` is not the target. -/
structure SetmodeUnreported (target : Byte) (s : State) : Prop where
  command : commandOf s.seq = some (.setmode target)
  undisturbed : Undisturbed s
  mode : ¬ ModeIs (trunc3 target) s

theorem SetmodeUnreported.step (h : SetmodeUnreported target s) : ∃ t, step s = .next t ∧ SetmodeUnreported target t := by
  obtain ⟨hc, ha, hm⟩ := h
  rcases step_busy_cases (ne_idle_of_commandOf hc) with ⟨a, rest, e, -⟩ | ⟨later, res, e⟩ | ⟨-, e⟩
  · exact absurd (ha.symm.trans e) (by simp)
  · exact ⟨_, e, hc, ha, hm⟩
  · obtain ⟨k, -, hturn⟩ := runUndisturbed_eq undisturbedBound s
    have hblock : blockTurn s = microSteps k s := by simp only [blockTurn, ha, hturn]
    have hmode (j : Nat) : ¬ ModeIs (trunc3 target) (microSteps j s) := by rwa [ModeIs, microSteps_modeStat]
    have hbusy : (microSteps k s).seq ≠ .idle := by
      rw [Ne, microSteps_setmode_idle_iff k hc]
      rintro ⟨j, -, -, hj⟩
      exact hmode j hj
    rw [hblock] at e
    exact ⟨_, e, ((microSteps_command k s).resolve_left hbusy).trans hc, (microSteps_agenda k s).trans ha, hmode k⟩

/-- However long it runs, SETMODE stays in progress. -/
theorem SetmodeUnreported.runsTo (h : SetmodeUnreported target s) (k : Nat) :
    ∃ t, RunsTo k s t ∧ SetmodeUnreported target t := by
  induction k with
  | zero => exact ⟨s, rfl, h⟩
  | succ k ih =>
    obtain ⟨t, ht, hun⟩ := ih
    obtain ⟨u, hu, hun⟩ := hun.step
    exact ⟨u, runsTo_snoc ht hu, hun⟩

end Run

/-! ### The obligations -/

/-- Settles O22: the turn is the first read, which ends the command. -/
theorem setmodeWritesNothingInTheTargetMode : Obligations.SetmodeWritesNothingInTheTargetMode := by
  unfold Obligations.SetmodeWritesNothingInTheTargetMode
  intro target s hi ha ht hm
  have hread : AtModeRead target (s.goto (.setmode target .s0)) := .inl rfl
  have hreports : modeReports target (s.goto (.setmode target .s0)) = true := (modeReports_iff target _).2 hm
  have hback : (s.goto (.setmode target .s0)).goto .idle = s := by rw [← hi]; rfl
  rw [exec_setmode_accepted hi ht, hread.blockTurn_eq ha, hreports, if_pos rfl, hback]

/-- Settles O23: the request takes three micro-steps, and what the peripheral then reports is read at S3. -/
theorem setmodeRequestsUntilTheTargetIsReported : Obligations.SetmodeRequestsUntilTheTargetIsReported := by
  unfold Obligations.SetmodeRequestsUntilTheTargetIsReported
  intro target m s hi ht hm hport ha
  refine ⟨decode_setmode_word target, _, exec_setmode_requested hi ht hm ha, rfl, fun hreports => ?_, fun hother => ?_⟩
  · have hend := runsTo_setmode_reported (target := target) (m := m) hport
    rw [if_pos hreports, ← hi] at hend
    exact hend
  · have hagain := runsTo_setmode_reported (target := target) (m := m) hport
    rw [if_neg hother] at hagain
    exact hagain

/-- Settles O24, label by label. -/
theorem setmodeFinishesExactlyWhenAReadReturnsTheTarget : Obligations.SetmodeFinishesExactlyWhenAReadReturnsTheTarget := by
  unfold Obligations.SetmodeFinishesExactlyWhenAReadReturnsTheTarget
  intro target l s hl
  have hread : AtModeRead target s ↔ l = .s0 ∨ l = .s3 := by simp [AtModeRead, hl]
  rw [microStep_setmode_idle_iff (commandOf_eq_setmode_iff.2 ⟨l, hl⟩), hread]

/-- Settles O25: the eight values of the low three bits. -/
theorem setmodeIsRefusedExactlyAtReservedTargets : Obligations.SetmodeIsRefusedExactlyAtReservedTargets := by
  unfold Obligations.SetmodeIsRefusedExactlyAtReservedTargets
  intro target s hi
  refine ⟨fun hres => exec_setmode_refused hi ?_, fun hcode => ⟨_, exec_setmode_accepted hi ((legalTarget_iff target).2 hcode)⟩⟩
  rw [legalTarget_iff]
  omega

/-- Settles O26: every step keeps the command in progress and `MODE_STAT` as it is. -/
theorem setmodeNeverFinishesWithoutAReport : Obligations.SetmodeNeverFinishesWithoutAReport := by
  unfold Obligations.SetmodeNeverFinishesWithoutAReport
  intro target s k hl ha hm
  have hun : SetmodeUnreported target s := ⟨commandOf_eq_setmode_iff.2 ⟨.s1, hl⟩, ha, hm⟩
  obtain ⟨t, hrun, ht⟩ := hun.runsTo k
  exact ⟨t, hrun, commandOf_eq_setmode_iff.1 ht.command⟩

/-- Settles O28: a step that ends SETMODE has a read that returns the target, and a step with such a read ends it. -/
theorem setmodeTerminatesExactlyIfAReadReturnsTheTarget : Obligations.SetmodeTerminatesExactlyIfAReadReturnsTheTarget := by
  unfold Obligations.SetmodeTerminatesExactlyIfAReadReturnsTheTarget
  intro target l s hl
  constructor
  · rintro ⟨k, t, hrun, hi⟩
    exact readReturnsTarget_of_runsTo_idle (commandOf_eq_setmode_iff.2 ⟨l, hl⟩) hrun hi
  · rintro ⟨k, u, hrun, hread⟩
    obtain ⟨t, hstep, hi⟩ := step_idle_of_readReturnsTarget hread
    exact ⟨k + 1, t, runsTo_snoc hrun hstep, hi⟩

end Sys2Proof.Machine
end

section
/-! SUPPORT. FSTRICT and FFIRST (44_receive_filter.md) micro-step by micro-step: the fields they touch, and the filter bank they leave
(R136, R137, R139). -/

namespace Sys2Proof.Machine

/-! ### The micro-steps -/

/-- The label of FSTRICT at which a filter call is, FFIRST inlining them (R139). -/
def filterLabel? : Seq → Option FilterLabel
  | .fstrict _ _ l => some l
  | .ffirst _ _ (.strict l) => some l
  | _ => none

/-- A micro-step of a filter call is one of FSTRICT's, or, in FFIRST after them, a write of the mask. -/
theorem microStep_filterCall {i : Instr} (hi : IsFilterCall i) {s : State} (hq : commandOf s.seq = some i) :
    (∃ nodeID messageType l q, filterLabel? s.seq = some l ∧
      microStep s = (microFilter nodeID messageType l s).1.goto q ∧ filterLabel? q = (microFilter nodeID messageType l s).2) ∨
    (∃ r v q, (r = .maskH ∨ r = .maskL) ∧ microStep s = (s.write r v).goto q ∧ filterLabel? q = none) := by
  cases e : s.seq with
  | fstrict nodeID messageType l =>
    refine .inl ⟨nodeID, messageType, l, ?_⟩
    simp only [microStep, e, microFstrict]
    rcases microFilter nodeID messageType l s with ⟨t, _ | l'⟩ <;> exact ⟨_, rfl, rfl, rfl⟩
  | ffirst nodeID messageType l =>
    cases l with
    | strict l =>
      refine .inl ⟨nodeID, messageType, l, ?_⟩
      simp only [microStep, e, microFfirst]
      rcases microFilter nodeID messageType l s with ⟨t, _ | l'⟩ <;> exact ⟨_, rfl, rfl, rfl⟩
    | s8 => exact .inr ⟨.maskH, _, _, .inl rfl, by rw [microStep, e]; rfl, rfl⟩
    | s9 => exact .inr ⟨.maskL, _, _, .inr rfl, by rw [microStep, e]; rfl, rfl⟩
  | _ => obtain ⟨_, _, rfl | rfl⟩ := hi <;> rw [e] at hq <;> cases hq

/-- A filter call is presented to the sequencer, which starts it at `S0`. -/
theorem exec_filterCall {i : Instr} (hi : IsFilterCall i) (s : State) :
    ∃ first, commandOf first = some i ∧ filterLabel? first = some .s0 ∧ exec i s = acceptCommand first (filterRefusal s) s := by
  obtain ⟨nodeID, messageType, rfl | rfl⟩ := hi
  · exact ⟨.fstrict nodeID messageType .s0, rfl, rfl, rfl⟩
  · exact ⟨.ffirst nodeID messageType (.strict .s0), rfl, rfl, rfl⟩

/-! ### The fields touched -/

/-- `s` with SEQ, the agenda, `FSC`, the filter banks, the mask and `RXIE0` of `t`. -/
def State.withFilterFieldsOf (s t : State) : State :=
  { s with
    seq := t.seq, agenda := t.agenda, fsc := t.fsc
    bank := { s.bank with
      filt0 := t.bank.filt0, filt1 := t.bank.filt1, maskH := t.bank.maskH, maskL := t.bank.maskL, rxie0 := t.bank.rxie0 } }

theorem microStep_filterCall_frame {i : Instr} (hi : IsFilterCall i) {s : State} (hq : commandOf s.seq = some i) :
    microStep s = s.withFilterFieldsOf (microStep s) := by
  rcases microStep_filterCall hi hq with ⟨nodeID, messageType, l, q, -, e, -⟩ | ⟨r, v, q, hr, e, -⟩
  · rw [e, microFilter_frame]
    rfl
  · rw [e]
    rcases hr with rfl | rfl <;> rfl

/-- Every piece of a filter call's run touches these fields alone. -/
theorem works_filterCall_frame {i : Instr} (hi : IsFilterCall i) {s t : State} (h : Works i s t) :
    t = s.withFilterFieldsOf t := by
  have hstateful : i.isPure = false := by obtain ⟨_, _, rfl | rfl⟩ := hi <;> rfl
  apply works_induct (h := h) (hstateful := hstateful)
  case start => rfl
  case free => exact fun u q rest hu => congrArg (fun v : State => { v with seq := q, agenda := rest }) hu
  case next => exact fun u hq hu => (microStep_filterCall_frame hi hq).trans (congrArg (·.withFilterFieldsOf (microStep u)) hu)

/-! ### The bank not selected -/

/-- At this label the filter call writes bank `n` no more: a write to come has selected the other bank, by the counter held or, at
`S0`, by `FSC` (R136). -/
def FilterLabel.Spares (n : BankNo) (fsc : Byte) : FilterLabel → Prop
  | .s0 => bankFor fsc ≠ n
  | .s1 c | .s2 c | .s3 c => bankFor c ≠ n
  | .s4 _ | .s5 | .s6 | .s7 => True

/-- The filter call in progress writes bank `n` no more. -/
def SparesBank (n : BankNo) (s : State) : Prop := ∀ l, filterLabel? s.seq = some l → l.Spares n s.fsc

theorem microFilter_spares (nodeID messageType : Byte) {n : BankNo} {l : FilterLabel} {s : State} (h : l.Spares n s.fsc) :
    filterBank (microFilter nodeID messageType l s).1.bank n = filterBank s.bank n ∧
      ∀ l', (microFilter nodeID messageType l s).2 = some l' → l'.Spares n (microFilter nodeID messageType l s).1.fsc := by
  cases l with
  | s0 => exact ⟨rfl, by rintro _ ⟨⟩; exact h⟩
  | s1 c | s2 c => exact ⟨filterBank_setFilterBank_other s.bank _ (Ne.symm h), by rintro _ ⟨⟩; exact h⟩
  | s3 c => exact ⟨filterBank_setFilterBank_other s.bank _ (Ne.symm h), by rintro _ ⟨⟩; trivial⟩
  | s4 c | s5 | s6 => exact ⟨by cases n <;> rfl, by rintro _ ⟨⟩; trivial⟩
  | s7 => exact ⟨by cases n <;> rfl, by rintro _ ⟨⟩⟩

/-- A micro-step of a filter call leaves the bank it spares, and spares it on. -/
theorem SparesBank.microStep {i : Instr} (hi : IsFilterCall i) {n : BankNo} {s : State} (hq : commandOf s.seq = some i)
    (h : SparesBank n s) : filterBank (microStep s).bank n = filterBank s.bank n ∧ SparesBank n (microStep s) := by
  rcases microStep_filterCall hi hq with ⟨nodeID, messageType, l, q, hl, e, hnext⟩ | ⟨r, v, q, hr, e, hnone⟩
  · obtain ⟨hbank, hlater⟩ := microFilter_spares nodeID messageType (h l hl)
    rw [e]
    exact ⟨hbank, fun l' hl' => hlater l' (hnext.symm.trans hl')⟩
  · rw [e]
    refine ⟨?_, fun l' hl' => absurd (hnone.symm.trans hl') nofun⟩
    rcases hr with rfl | rfl <;> cases n <;> rfl

/-- So does the block's turn. -/
theorem SparesBank.blockTurn {i : Instr} (hi : IsFilterCall i) {n : BankNo} {s : State} (hq : commandOf s.seq = some i)
    (h : SparesBank n s) : filterBank (blockTurn s).bank n = filterBank s.bank n := by
  have hturn := blockTurn_induct
    (P := fun u => filterBank u.bank n = filterBank s.bank n ∧
      (u.seq = .idle ∨ commandOf u.seq = some i ∧ SparesBank n u))
    (fun _ _ hu => hu)
    (fun u ⟨hbank, hu⟩ => by
      rcases hu with hidle | ⟨hc, hspares⟩
      · rw [microStep_idle hidle]; exact ⟨hbank, .inl hidle⟩
      · obtain ⟨hstep, hon⟩ := hspares.microStep hi hc
        exact ⟨hstep.trans hbank, (microStep_command u).imp_right fun hcommand => ⟨hcommand.trans hc, hon⟩⟩)
    s ⟨rfl, .inr ⟨hq, h⟩⟩
  exact hturn.1

theorem filterLabelOk_of_seqOk {l : FilterLabel} {s : State} (hl : filterLabel? s.seq = some l) (hok : seqOk s = true) :
    filterLabelOk s l = true := by
  cases e : s.seq with
  | fstrict _ _ m => rw [e] at hl; cases hl; simpa only [seqOk, e] using hok
  | ffirst _ _ m =>
    rw [e] at hl
    cases m with
    | strict m => cases hl; simpa only [seqOk, e] using hok
    | s8 | s9 => cases hl
  | _ => rw [e] at hl; cases hl

/-- The counter held from `S0` is still in `FSC` (R137), so the bank `FSC` does not select is spared. -/
theorem FilterLabel.spares_of_not_selected {n : BankNo} {l : FilterLabel} {s : State} (hok : filterLabelOk s l = true)
    (h : bankFor s.fsc ≠ n) : l.Spares n s.fsc := by
  cases l with
  | s0 => exact h
  | s1 c | s2 c | s3 c =>
    simp only [filterLabelOk, Bool.and_eq_true, beq_iff_eq] at hok
    obtain ⟨⟨-, hheld⟩, -⟩ := hok
    exact hheld ▸ h
  | s4 _ | s5 | s6 | s7 => trivial

/-- Past its last write of a filter bank the call spares both. -/
theorem FilterLabel.spares_of_pastBankWrites (n : BankNo) (fsc : Byte) {l : FilterLabel} {q : Seq} (hl : filterLabel? q = some l)
    (h : pastBankWrites q = true) : l.Spares n fsc := by
  have hlabel : l = .s5 ∨ l = .s6 ∨ l = .s7 ∨ ∃ c, l = .s4 c := by
    cases q with
    | fstrict _ _ m => cases hl; cases l <;> simp_all [pastBankWrites]
    | ffirst _ _ m => cases m <;> cases hl; cases l <;> simp_all [pastBankWrites]
    | _ => cases hl
  rcases hlabel with rfl | rfl | rfl | ⟨c, rfl⟩ <;> trivial

/-- Every piece of a filter call's run leaves the bank the call spares: the one not selected, and past the writes of a bank both. -/
theorem works_filterCall_filterBank {i : Instr} (hi : IsFilterCall i) {n : BankNo} {s t : State} (h : Works i s t)
    (hok : seqOk s = true) (hn : bankFor s.fsc ≠ n ∨ pastBankWrites s.seq = true) :
    filterBank t.bank n = filterBank s.bank n := by
  rcases h with h | ⟨hq, rfl⟩
  · obtain ⟨first, hfirst, hlabel, e⟩ := exec_filterCall hi s
    rw [e] at h
    rcases acceptCommand_cases first (filterRefusal s) s with ⟨-, ha⟩ | ⟨-, r, -, ha⟩ | ⟨hidle, -, ha⟩ <;> cases ha.symm.trans h
    · rfl
    · have hn : bankFor s.fsc ≠ n := hn.resolve_right (by rw [hidle]; nofun)
      apply SparesBank.blockTurn (s := s.goto first) hi hfirst
      rintro l hl
      cases hlabel.symm.trans hl
      exact hn
  · apply SparesBank.blockTurn hi hq
    intro l hl
    rcases hn with hn | hn
    · exact FilterLabel.spares_of_not_selected (filterLabelOk_of_seqOk hl hok) hn
    · exact FilterLabel.spares_of_pastBankWrites n s.fsc hl hn

/-! ### The obligation -/

/-- Settles O59: the frame of the micro-steps, and the bank a filter call spares. -/
theorem frameOfTheFilterCalls : Obligations.FrameOfTheFilterCalls := by
  unfold Obligations.FrameOfTheFilterCalls
  intro nodeID messageType s t i hi h
  have hcall : IsFilterCall i := ⟨nodeID, messageType, hi⟩
  have hspared (n : BankNo) (hok : seqOk s = true) := works_filterCall_filterBank (n := n) hcall h hok
  refine ⟨works_filterCall_frame hcall h, fun hok => ⟨fun hfsc => ?_, fun hfsc => ?_, fun hpast => ?_⟩⟩
  · exact hspared .zero hok (.inl (by simp [bankFor, hfsc]))
  · exact hspared .one hok (.inl (by simp [bankFor, hfsc]))
  · exact ⟨hspared .zero hok (.inr hpast), hspared .one hok (.inr hpast)⟩

end Sys2Proof.Machine
end

section
/-! SUPPORT. The runs of FSTRICT and FFIRST in closed form (R135, R139), and any number of filter calls since INIT (R141, R142). -/

namespace Sys2Proof

/-- The strict mask's low byte as a sum (R77). -/
theorem strictMaskL_eq_ofNat (p : Params) : strictMaskL p = BitVec.ofNat 8 (0xE0 + 2 ^ p.fmtSelBit.val) := by
  have hall : ∀ f : Fin 5, 0xE0#8 ||| (1#8 <<< f.val) = BitVec.ofNat 8 (0xE0 + 2 ^ f.val) := by decide
  exact hall p.fmtSelBit

theorem decode_fstrict_word (nodeID messageType : Byte) :
    decode (BitVec.ofNat 88 (0x7 + nodeID.toNat * 2 ^ 4 + messageType.toNat * 2 ^ 12)) = .ok (.fstrict nodeID messageType) :=
  (decode_eq_ok_iff _ _).2 (twoByteWord_eq_ofNat 0x7#4 nodeID messageType)

theorem decode_ffirst_word (nodeID messageType : Byte) :
    decode (BitVec.ofNat 88 (0x8 + nodeID.toNat * 2 ^ 4 + messageType.toNat * 2 ^ 12)) = .ok (.ffirst nodeID messageType) :=
  (decode_eq_ok_iff _ _).2 (twoByteWord_eq_ofNat 0x8#4 nodeID messageType)

end Sys2Proof

namespace Sys2Proof.Machine

/-! ### A run in closed form -/

/-- `after k` is where the block is after `k` micro-steps, none of them a poll that fails. -/
structure RunsAs (after : Nat → State) : Prop where
  next : ∀ k, microStep (after k) = after (k + 1)
  polls : ∀ k, pollFails (after k) = false

namespace RunsAs
variable {after : Nat → State} (h : RunsAs after)
include h

theorem microSteps_eq (k : Nat) : microSteps k (after 0) = after k := by
  induction k with
  | zero => rfl
  | succ k ih => rw [microSteps_add, ih, microSteps, microSteps, h.next]

theorem blockTurn_undisturbed (ha : Undisturbed (after 0)) : blockTurn (after 0) = after undisturbedBound := by
  have hpolls (j : Nat) : pollFails (microSteps j (after 0)) = false := by rw [h.microSteps_eq, h.polls]
  rw [blockTurn, ha]
  exact (runUndisturbed_eq_microSteps fun j _ => hpolls j).trans (h.microSteps_eq _)

theorem blockTurn_granted {k : Nat} {rest : List Turn} (ha : (after 0).agenda = .block k :: rest) :
    blockTurn (after 0) = (after k).withAgenda rest := by
  rw [Machine.blockTurn_granted ha, h.microSteps_eq]

end RunsAs

/-! ### The runs -/

section Runs
variable (nodeID messageType : Byte) (s : State)

/-- FSTRICT's label after `k` of its micro-steps, with the counter `c` read at `S0`; `none` where it has ended. -/
def filterLabelAt (c : Byte) : Nat → Option FilterLabel
  | 0 => some .s0
  | 1 => some (.s1 c)
  | 2 => some (.s2 c)
  | 3 => some (.s3 c)
  | 4 => some (.s4 c)
  | 5 => some .s5
  | 6 => some .s6
  | 7 => some .s7
  | _ + 8 => none

/-- The first `k` of FSTRICT's eight micro-steps done, SEQ apart (R135). -/
def filterAfter (k : Nat) : State :=
  { s with
    fsc := if 5 ≤ k then s.fsc + 1#8 else s.fsc
    bank := { setFilterBank s.bank (bankFor s.fsc)
        ⟨if 2 ≤ k then idHigh nodeID messageType else (filterBank s.bank (bankFor s.fsc)).idH,
          if 3 ≤ k then idLow nodeID else (filterBank s.bank (bankFor s.fsc)).idL,
          if 4 ≤ k then 1#1 else (filterBank s.bank (bankFor s.fsc)).en⟩ with
      maskH := if 6 ≤ k then strictMaskH else s.bank.maskH
      maskL := if 7 ≤ k then strictMaskL s.params else s.bank.maskL
      rxie0 := if 8 ≤ k then 1#1 else s.bank.rxie0 } }

theorem filterAfter_zero : filterAfter nodeID messageType s 0 = s := by
  unfold filterAfter
  generalize bankFor s.fsc = n
  cases n <;> rfl

theorem microFilter_filterAfter {k : Nat} {l : FilterLabel} (hl : filterLabelAt s.fsc k = some l) (q : Seq) :
    microFilter nodeID messageType l ((filterAfter nodeID messageType s k).goto q) =
      ((filterAfter nodeID messageType s (k + 1)).goto q, filterLabelAt s.fsc (k + 1)) := by
  have hbytes := headerToBytes_eq nodeID messageType
  match k with
  | 0 | 1 | 2 | 3 | 4 | 5 | 6 | 7 =>
    cases hl
    simp only [microFilter, hbytes, filterAfter]
    generalize bankFor s.fsc = n
    cases n <;> rfl
  | k + 8 => cases hl

theorem filterLabelAt_eq_none_iff (c : Byte) (k : Nat) : filterLabelAt c k = none ↔ 8 ≤ k := by
  match k with
  | 0 | 1 | 2 | 3 | 4 | 5 | 6 | 7 => simp [filterLabelAt]
  | k + 8 => simp [filterLabelAt]

/-- Where FSTRICT is after `k` of its micro-steps. -/
def fstrictSeq (k : Nat) : Seq :=
  match filterLabelAt s.fsc k with
  | some l => .fstrict nodeID messageType l
  | none => .idle

/-- FSTRICT after `k` of its micro-steps. -/
def fstrictAfter (k : Nat) : State := (filterAfter nodeID messageType s k).goto (fstrictSeq nodeID messageType s k)

theorem fstrictSeq_eq_idle_iff (k : Nat) : fstrictSeq nodeID messageType s k = .idle ↔ 8 ≤ k := by
  rw [← filterLabelAt_eq_none_iff s.fsc, fstrictSeq]
  cases filterLabelAt s.fsc k <;> simp

theorem fstrictAfter_zero : fstrictAfter nodeID messageType s 0 = s.goto (.fstrict nodeID messageType .s0) := by
  rw [fstrictAfter, filterAfter_zero]
  rfl

theorem fstrictAfter_runsAs : RunsAs (fstrictAfter nodeID messageType s) where
  next k := by
    cases hl : filterLabelAt s.fsc k with
    | some l =>
      simp only [fstrictAfter, fstrictSeq, hl, microStep, State.goto_seq, microFstrict, microFilter_filterAfter _ _ _ hl]
      cases filterLabelAt s.fsc (k + 1) <;> rfl
    | none =>
      obtain ⟨j, rfl⟩ := Nat.exists_eq_add_of_le' ((filterLabelAt_eq_none_iff s.fsc k).1 hl)
      rw [microStep_idle rfl]
      simp [fstrictAfter, fstrictSeq, filterLabelAt, filterAfter]
  polls k := by
    match k with
    | 0 | 1 | 2 | 3 | 4 | 5 | 6 | 7 | _ + 8 => rfl

/-- Where FFIRST is after `k` of its micro-steps. -/
def ffirstSeq (k : Nat) : Seq :=
  match filterLabelAt s.fsc k with
  | some l => .ffirst nodeID messageType (.strict l)
  | none => if k = 8 then .ffirst nodeID messageType .s8 else if k = 9 then .ffirst nodeID messageType .s9 else .idle

/-- FFIRST after `k` of its micro-steps: FSTRICT's, then the two writes of the subrange mask (R139). -/
def ffirstAfter (k : Nat) : State :=
  { filterAfter nodeID messageType s k with
    seq := ffirstSeq nodeID messageType s k
    bank := { (filterAfter nodeID messageType s k).bank with
      maskH := if 9 ≤ k then s.params.subrangeMaskH else (filterAfter nodeID messageType s k).bank.maskH
      maskL := if 10 ≤ k then s.params.subrangeMaskL else (filterAfter nodeID messageType s k).bank.maskL } }

theorem ffirstSeq_eq_idle_iff (k : Nat) : ffirstSeq nodeID messageType s k = .idle ↔ 10 ≤ k := by
  match k with
  | 0 | 1 | 2 | 3 | 4 | 5 | 6 | 7 | 8 | 9 => simp [ffirstSeq, filterLabelAt]
  | k + 10 => simp [ffirstSeq, filterLabelAt]

/-- Through `S8` FFIRST is as FSTRICT but for SEQ. -/
theorem ffirstAfter_of_le {k : Nat} (hk : k ≤ 8) :
    ffirstAfter nodeID messageType s k = (filterAfter nodeID messageType s k).goto (ffirstSeq nodeID messageType s k) := by
  have hmaskH : ¬ 9 ≤ k := by omega
  have hmaskL : ¬ 10 ≤ k := by omega
  simp only [ffirstAfter, if_neg hmaskH, if_neg hmaskL, State.goto]

theorem ffirstAfter_zero : ffirstAfter nodeID messageType s 0 = s.goto (.ffirst nodeID messageType (.strict .s0)) := by
  rw [ffirstAfter_of_le nodeID messageType s (by decide), filterAfter_zero]
  rfl

theorem ffirstAfter_runsAs : RunsAs (ffirstAfter nodeID messageType s) where
  next k := by
    cases hl : filterLabelAt s.fsc k with
    | some l =>
      have hk : k + 1 ≤ 8 := by
        by_contra hk
        cases hl.symm.trans ((filterLabelAt_eq_none_iff s.fsc k).2 (by omega))
      rw [ffirstAfter_of_le _ _ _ (by omega), ffirstAfter_of_le _ _ _ hk]
      simp only [ffirstSeq, hl, microStep, State.goto_seq, microFfirst, microFilter_filterAfter _ _ _ hl]
      cases hl' : filterLabelAt s.fsc (k + 1) with
      | some l' => rfl
      | none =>
        have hk8 : k + 1 = 8 := Nat.le_antisymm hk ((filterLabelAt_eq_none_iff s.fsc _).1 hl')
        simp [hk8, State.goto]
    | none =>
      obtain ⟨j, rfl⟩ := Nat.exists_eq_add_of_le' ((filterLabelAt_eq_none_iff s.fsc k).1 hl)
      match j with
      | 0 | 1 => rfl
      | j + 2 =>
        rw [microStep_idle rfl]
        simp [ffirstAfter, ffirstSeq, filterLabelAt, filterAfter]
  polls k := by
    match k with
    | 0 | 1 | 2 | 3 | 4 | 5 | 6 | 7 | 8 | 9 | _ + 10 => rfl

variable {nodeID messageType s}

/-- After INIT and with `FSC` below 255 a filter call has a meaning (R202, R146). -/
theorem filterRefusal_eq_none (hd : InitDone s) (hf : s.fsc ≠ 255#8) : filterRefusal s = none := by
  simp [filterRefusal, hd, hf]

theorem exec_fstrict_accepted (hi : SeqIdle s) (hd : InitDone s) (hf : s.fsc ≠ 255#8) :
    exec (.fstrict nodeID messageType) s = .next (blockTurn (fstrictAfter nodeID messageType s 0)) := by
  rw [fstrictAfter_zero]
  exact acceptCommand_accepted hi (filterRefusal_eq_none hd hf)

theorem exec_ffirst_accepted (hi : SeqIdle s) (hd : InitDone s) (hf : s.fsc ≠ 255#8) :
    exec (.ffirst nodeID messageType) s = .next (blockTurn (ffirstAfter nodeID messageType s 0)) := by
  rw [ffirstAfter_zero]
  exact acceptCommand_accepted hi (filterRefusal_eq_none hd hf)

end Runs

/-- The filter bank a call writes: its header's bytes, enabled. -/
def headerBank (c : Bool × Byte × Byte) : FilterBank := ⟨idHigh c.2.1 c.2.2, idLow c.2.1, 1#1⟩

/-- What an undisturbed filter call leaves, from a state at IDLE: the bank `FSC` selects, the counter, the mask and `RXIE0` (R137, R139). -/
def filterDone (c : Bool × Byte × Byte) (s : State) : State :=
  { s with
    fsc := s.fsc + 1#8
    bank := { setFilterBank s.bank (bankFor s.fsc) (headerBank c) with
      maskH := if c.1 then s.params.subrangeMaskH else strictMaskH
      maskL := if c.1 then s.params.subrangeMaskL else strictMaskL s.params
      rxie0 := 1#1 } }

/-- An undisturbed filter call runs to its end. -/
theorem exec_filterCall_undisturbed (c : Bool × Byte × Byte) {s : State} (hi : SeqIdle s) (ha : Undisturbed s) (hd : InitDone s)
    (hf : s.fsc ≠ 255#8) : exec (filterCall c) s = .next (filterDone c s) := by
  obtain ⟨loosens, nodeID, messageType⟩ := c
  cases loosens with
  | false =>
    rw [filterCall, if_neg Bool.false_ne_true, exec_fstrict_accepted hi hd hf, (fstrictAfter_runsAs ..).blockTurn_undisturbed ha]
    simp [fstrictAfter, fstrictSeq, filterLabelAt, filterAfter, filterDone, headerBank, undisturbedBound, State.goto, hi]
  | true =>
    rw [filterCall, if_pos rfl, exec_ffirst_accepted hi hd hf, (ffirstAfter_runsAs ..).blockTurn_undisturbed ha]
    simp [ffirstAfter, ffirstSeq, filterLabelAt, filterAfter, filterDone, headerBank, undisturbedBound, hi]

theorem filterDone_banks_of_fsc_zero (c : Bool × Byte × Byte) {s : State} (h : s.fsc.toNat = 0) :
    (filterDone c s).bank.filt0 = headerBank c ∧ (filterDone c s).bank.filt1 = s.bank.filt1 := by
  have hbank : bankFor s.fsc = .zero := if_pos (BitVec.eq_of_toNat_eq h)
  simp only [filterDone, hbank, setFilterBank, and_self]

theorem filterDone_banks_of_fsc_pos (c : Bool × Byte × Byte) {s : State} (h : 0 < s.fsc.toNat) :
    (filterDone c s).bank.filt0 = s.bank.filt0 ∧ (filterDone c s).bank.filt1 = headerBank c := by
  have hbank : bankFor s.fsc = .one := if_neg fun e => by simp [e] at h
  simp only [filterDone, hbank, setFilterBank, and_self]

/-! ### The calls since INIT -/

theorem execAll_append {is : List Instr} {s t : State} (h : execAll is s = .next t) (js : List Instr) :
    execAll (is ++ js) s = execAll js t := by
  induction is generalizing s with
  | nil => cases h; rfl
  | cons i is ih =>
    simp only [execAll, List.cons_append] at h ⊢
    cases e : exec i s with
    | next s' => rw [e] at h; exact ih h
    | fault f => rw [e] at h; cases h
    | refused r => rw [e] at h; cases h

/-- `t` is what these calls leave, undisturbed, of a state `s` at IDLE that an INIT has just left (R141, R142). -/
structure LeftByCalls (s : State) (calls : List (Bool × Byte × Byte)) (t : State) : Prop where
  idle : SeqIdle t
  undisturbed : Undisturbed t
  initDone : InitDone t
  params : t.params = s.params
  counter : t.fsc.toNat = calls.length
  bank0 : ∀ c, calls.head? = some c → t.bank.filt0 = headerBank c
  bank1 : 2 ≤ calls.length → ∀ c, calls.getLast? = some c → t.bank.filt1 = headerBank c
  bank1_unused : calls.length < 2 → t.bank.filt1 = s.bank.filt1
  mask : ∀ c, calls.getLast? = some c →
    t.bank.maskH = (if c.1 then s.params.subrangeMaskH else strictMaskH) ∧
    t.bank.maskL = (if c.1 then s.params.subrangeMaskL else strictMaskL s.params) ∧ t.bank.rxie0 = 1#1

theorem leftByCalls_init (r : Routing) {s : State} (hi : SeqIdle s) (ha : Undisturbed s) : LeftByCalls s [] (initEnd r s) where
  idle := hi
  undisturbed := ha
  initDone := rfl
  params := rfl
  counter := rfl
  bank0 := nofun
  bank1 := nofun
  bank1_unused := fun _ => by cases r <;> rfl
  mask := nofun

/-- One more call: the first one selects bank 0, every later one bank 1 (R136). -/
theorem LeftByCalls.snoc {s t : State} {calls : List (Bool × Byte × Byte)} (h : LeftByCalls s calls t) (hlen : calls.length < 255)
    (c : Bool × Byte × Byte) : LeftByCalls s (calls ++ [c]) (filterDone c t) where
  idle := h.idle
  undisturbed := h.undisturbed
  initDone := h.initDone
  params := h.params
  counter := by
    simp only [filterDone, BitVec.toNat_add, h.counter, List.length_append, List.length_singleton]
    exact Nat.mod_eq_of_lt (show calls.length + 1 < 256 by omega)
  bank0 d hd := by
    cases calls with
    | nil => cases hd; exact (filterDone_banks_of_fsc_zero c h.counter).1
    | cons first later =>
      have hpos : 0 < t.fsc.toNat := by simp [h.counter]
      exact (filterDone_banks_of_fsc_pos c hpos).1.trans (h.bank0 d hd)
  bank1 htwo d hd := by
    rw [List.getLast?_concat] at hd
    cases hd
    have hpos : 0 < t.fsc.toNat := by rw [List.length_append, List.length_singleton] at htwo; rw [h.counter]; omega
    exact (filterDone_banks_of_fsc_pos c hpos).2
  bank1_unused hone := by
    have hnone : calls.length = 0 := by rw [List.length_append, List.length_singleton] at hone; omega
    exact (filterDone_banks_of_fsc_zero c (h.counter.trans hnone)).2.trans (h.bank1_unused (by omega))
  mask d hd := by
    rw [List.getLast?_concat] at hd
    cases hd
    rw [← h.params]
    exact ⟨rfl, rfl, rfl⟩

/-- Any number of filter calls that the counter can serve run, one after another. -/
theorem execAll_filterCalls (r : Routing) (calls : List (Bool × Byte × Byte)) {s : State} (hi : SeqIdle s) (ha : Undisturbed s)
    (hlen : calls.length ≤ 255) : ∃ t, execAll (.init r :: calls.map filterCall) s = .next t ∧ LeftByCalls s calls t := by
  induction calls using List.reverseRecOn with
  | nil => exact ⟨initEnd r s, by simp [execAll, exec_init_undisturbed hi ha], leftByCalls_init r hi ha⟩
  | append_singleton calls c ih =>
    rw [List.length_append, List.length_singleton] at hlen
    obtain ⟨t, hrun, ht⟩ := ih (by omega)
    have hfsc : t.fsc ≠ 255#8 := fun e => by
      have hfull : calls.length = 255 := ht.counter.symm.trans (congrArg BitVec.toNat e)
      omega
    refine ⟨filterDone c t, ?_, ht.snoc (by omega) c⟩
    rw [List.map_append, ← List.cons_append, execAll_append hrun]
    simp [execAll, exec_filterCall_undisturbed c ht.idle ht.undisturbed ht.initDone hfsc]

/-! ### The obligations -/

/-- Settles O29, from the run in closed form. -/
theorem fstrictConfiguresTheNextBank : Obligations.FstrictConfiguresTheNextBank := by
  unfold Obligations.FstrictConfiguresTheNextBank
  intro nodeID messageType s hi hd hf n old maskL
  refine ⟨decode_fstrict_word nodeID messageType, fun ha => ?_, fun k rest ha => ?_⟩
  · simp only [maskL, ← strictMaskL_eq_ofNat]
    exact exec_filterCall_undisturbed (false, nodeID, messageType) hi ha hd hf
  · rw [exec_fstrict_accepted hi hd hf, (fstrictAfter_runsAs ..).blockTurn_granted ha]
    refine ⟨_, rfl, ?_, fstrictSeq_eq_idle_iff nodeID messageType s k⟩
    simp only [maskL, ← strictMaskL_eq_ofNat]
    rfl

/-- Settles O30, from the run in closed form. -/
theorem ffirstLoosensTheSharedMask : Obligations.FfirstLoosensTheSharedMask := by
  unfold Obligations.FfirstLoosensTheSharedMask
  intro nodeID messageType s hi hd hf n old maskL
  refine ⟨decode_ffirst_word nodeID messageType, fun ha => ?_, fun k rest ha => ?_⟩
  · exact exec_filterCall_undisturbed (true, nodeID, messageType) hi ha hd hf
  · rw [exec_ffirst_accepted hi hd hf, (ffirstAfter_runsAs ..).blockTurn_granted ha]
    refine ⟨_, rfl, ?_, ffirstSeq_eq_idle_iff nodeID messageType s k⟩
    simp only [maskL, ← strictMaskL_eq_ofNat]
    rfl

/-- Settles O32, by induction on the calls from the last. -/
theorem filterCallsSinceInit : Obligations.FilterCallsSinceInit := by
  unfold Obligations.FilterCallsSinceInit
  intro r calls s hi ha hlen
  obtain ⟨t, hrun, h⟩ := execAll_filterCalls r calls hi ha hlen
  exact ⟨t, hrun, h.idle, h.counter, h.bank0, h.bank1, h.bank1_unused, h.mask⟩

end Sys2Proof.Machine
end

section
/-! SUPPORT. What the shared mask admits (R144, R145): a mask of the top bits compares quotients, and a mask of one bit that bit. -/

namespace Sys2Proof.Machine

/-! ### Masked comparison -/

/-- Under a mask of all bits from `n` up, two bytes match exactly if they agree from bit `n` up. -/
theorem xor_and_highMask_eq_zero_iff (x y : Byte) (n : Nat) :
    (x ^^^ y) &&& (BitVec.allOnes 8 <<< n) = 0#8 ↔ x.toNat / 2 ^ n = y.toNat / 2 ^ n := by
  have hmasked : ((x ^^^ y) &&& (BitVec.allOnes 8 <<< n)).toNat = (x ^^^ y).toNat / 2 ^ n * 2 ^ n := by
    have hle : (x ^^^ y).toNat / 2 ^ n * 2 ^ n < 2 ^ 8 := (Nat.div_mul_le_self _ _).trans_lt (x ^^^ y).isLt
    rw [← BitVec.shiftLeft_ushiftRight, BitVec.toNat_shiftLeft, BitVec.toNat_ushiftRight, Nat.shiftLeft_eq,
      Nat.shiftRight_eq_div_pow, Nat.mod_eq_of_lt hle]
  rw [← BitVec.toNat_inj, hmasked, BitVec.toNat_xor, Nat.xor_div_two_pow]
  simp

/-- Under a mask of the one bit `n`, two bytes match exactly if they agree in bit `n`. -/
theorem xor_and_bitMask_eq_zero_iff (x y : Byte) {n : Nat} (hn : n < 8) :
    (x ^^^ y) &&& (1#8 <<< n) = 0#8 ↔ x.getLsbD n = y.getLsbD n := by
  have hbit : BitVec.twoPow 8 n ≠ 0#8 := by
    intro h
    have hone : (BitVec.twoPow 8 n).getLsbD n = false := by rw [h, BitVec.getLsbD_zero]
    simp [hn] at hone
  rw [← BitVec.twoPow_eq, BitVec.and_twoPow, BitVec.getLsbD_xor]
  cases x.getLsbD n <;> cases y.getLsbD n <;> simp [hbit]

/-- A bank writes no bit of `low[4:0]` (R71). -/
theorem getLsbD_idLow {n : Nat} (hn : n < 5) (nodeID : Byte) : (idLow nodeID).getLsbD n = false := by
  rw [← BitVec.testBit_toNat, toNat_idLow, Nat.testBit_mul_two_pow (nodeID.toNat % 8) n 5]
  simp [Nat.not_le.2 hn]

theorem bankAccepts_iff {b : Bank} {n : BankNo} {idH idL : Byte} (hbank : filterBank b n = ⟨idH, idL, 1#1⟩) (rh rl : Byte) :
    bankAccepts b n rh rl = true ↔ (rh ^^^ idH) &&& b.maskH = 0#8 ∧ (rl ^^^ idL) &&& b.maskL = 0#8 := by
  simp [bankAccepts, hbank]

/-- The strict mask compares the whole high byte, and of the low byte the identifier's bits and the format bit (R77). -/
theorem strictMask_iff (p : Params) (rh rl idH idL : Byte) :
    (rh ^^^ idH) &&& strictMaskH = 0#8 ∧ (rl ^^^ idL) &&& strictMaskL p = 0#8 ↔
      rh.toNat = idH.toNat ∧ rl.toNat / 32 = idL.toNat / 32 ∧
        rl.getLsbD p.fmtSelBit.val = idL.getLsbD p.fmtSelBit.val := by
  have hhigh : (rh ^^^ idH) &&& strictMaskH = 0#8 ↔ rh.toNat / 1 = idH.toNat / 1 := xor_and_highMask_eq_zero_iff rh idH 0
  have hlow : (rl ^^^ idL) &&& 0xE0#8 = 0#8 ↔ rl.toNat / 32 = idL.toNat / 32 := xor_and_highMask_eq_zero_iff rl idL 5
  have hformat := xor_and_bitMask_eq_zero_iff rl idL (n := p.fmtSelBit.val) (by omega)
  simp only [Nat.div_one] at hhigh
  rw [strictMaskL, BitVec.and_or_distrib_left, BitVec.or_eq_zero_iff, hhigh, hlow, hformat]

/-- The default subrange mask compares the four top bits of the high byte (R78). -/
theorem subrangeMask_iff (rh rl idH idL : Byte) :
    (rh ^^^ idH) &&& 0xF0#8 = 0#8 ∧ (rl ^^^ idL) &&& 0x00#8 = 0#8 ↔ rh.toNat / 16 = idH.toNat / 16 := by
  have hhigh : (rh ^^^ idH) &&& 0xF0#8 = 0#8 ↔ rh.toNat / 16 = idH.toNat / 16 := xor_and_highMask_eq_zero_iff rh idH 4
  rw [hhigh]
  exact and_iff_left BitVec.and_zero

/-! ### The obligations -/

/-- Settles O33: a bank's own format bit is 0, and the bits compared beside it are those of the identifier. -/
theorem strictMaskAcceptsOneStandardIdentifier : Obligations.StrictMaskAcceptsOneStandardIdentifier := by
  unfold Obligations.StrictMaskAcceptsOneStandardIdentifier
  intro p b n nodeID messageType rh rl hbank hmaskH hmaskL
  have hid : identifier rh rl = messageType.toNat % 8 * 256 + nodeID.toNat ↔
      rh.toNat = (idHigh nodeID messageType).toNat ∧ rl.toNat / 32 = (idLow nodeID).toNat / 32 := by
    rw [identifier, toNat_idHigh, toNat_idLow]
    omega
  rw [bankAccepts_iff hbank, hmaskH, hmaskL, strictMask_iff, getLsbD_idLow p.fmtSelBit.isLt, hid, and_assoc]

/-- Settles O34: the four bits compared are the message type and the top node bit. -/
theorem subrangeMaskAcceptsAHalfRange : Obligations.SubrangeMaskAcceptsAHalfRange := by
  unfold Obligations.SubrangeMaskAcceptsAHalfRange
  intro b n nodeID messageType rh rl hbank hmaskH hmaskL
  rw [bankAccepts_iff hbank, hmaskH, hmaskL, subrangeMask_iff, toNat_idHigh, identifier]
  omega

end Sys2Proof.Machine
end

section
/-! SUPPORT. The transmit commands by place (R68): SEND's sub-sequence in SEND and in SENDSYNC, and the wait in the four places where
it occurs, each micro-step said once for all of them. -/

namespace Sys2Proof.Machine

theorem txreqSet_iff (s : State) : txreqSet s = true ↔ s.bank.txreq = 1#1 := by simp [txreqSet]

theorem txIdle_iff (s : State) : TxIdle s ↔ s.bank.txreq ≠ 1#1 := by
  rcases BitVec.eq_zero_or_eq_one s.bank.txreq with h | h <;> simp [TxIdle, h]

theorem txerrSet_iff (s : State) : txerrSet s = true ↔ s.bank.txerr = 1#1 := by simp [txerrSet]

theorem txreqSet_of_txIdle {s : State} (h : TxIdle s) : txreqSet s = false := by simp [txreqSet, h]

/-! ### SEND's sub-sequence -/

/-- The command that runs SEND's micro-steps: SEND, or SENDSYNC, which inlines them (R168). -/
inductive Sender where
  | send
  | sendsync

namespace Sender

/-- The command. -/
def instr (x : Sender) (m : Message) : Instr :=
  match x with
  | send => .send m
  | sendsync => .sendsync m

/-- Where SEQ stands at a label of SEND. -/
def seqAt (x : Sender) (m : Message) (l : SendLabel) : Seq :=
  match x with
  | send => .send m l
  | sendsync => .sendsync m (.send l)

/-- Where SEQ stands after SEND's last micro-step: at IDLE, or in the second wait. -/
def seqAfter (x : Sender) (m : Message) : Seq :=
  match x with
  | send => .idle
  | sendsync => .sendsync m (.wait .a0)

/-- SEQ at the label after one of SEND's micro-steps, if there is one. -/
def seqNext (x : Sender) (m : Message) : Option SendLabel → Seq
  | some l => x.seqAt m l
  | none => x.seqAfter m

end Sender

section Sender
variable {x : Sender} {m : Message} {l : SendLabel} {s : State}

/-- At a label of SEND the micro-step is SEND's. -/
theorem microStep_sender (h : s.seq = x.seqAt m l) :
    microStep s = (microMessage m l s).1.goto (x.seqNext m (microMessage m l s).2) := by
  cases x
  · simp only [microStep, h, Sender.seqAt, microSend]
    rcases microMessage m l s with ⟨t, _ | l'⟩ <;> rfl
  · simp only [microStep, h, Sender.seqAt, microSendsync]
    rcases microMessage m l s with ⟨t, _ | l'⟩ <;> rfl

/-- At a label of SEND the poll that can fail is A0. -/
theorem pollFails_sender (h : s.seq = x.seqAt m l) : pollFails s = (l == .wait .a0 && txreqSet s) := by
  cases l with
  | wait l => cases x <;> cases l <;> simp [pollFails, h, Sender.seqAt]
  | s0 | s1 | s2 | s3 | s4 i | s5 => cases x <;> simp [pollFails, h, Sender.seqAt]

end Sender

/-! ### The wait -/

/-- The places of the wait (R68): AWAIT itself, before the message in SEND and SENDSYNC, and after it in SENDSYNC. -/
inductive WaitPlace where
  | await
  | first (x : Sender) (m : Message)
  | second (m : Message)

namespace WaitPlace

/-- Where SEQ stands at a label of the wait. -/
def seqAt : WaitPlace → AwaitLabel → Seq
  | await, l => .await l
  | first x m, l => x.seqAt m (.wait l)
  | second m, l => .sendsync m (.wait l)

/-- Where SEQ stands after the wait. -/
def seqAfter : WaitPlace → Seq
  | await => .idle
  | first x m => x.seqAt m .s1
  | second _ => .idle

/-- SEQ at the label after one of the wait's micro-steps, if there is one. -/
def seqNext (w : WaitPlace) : Option AwaitLabel → Seq
  | some l => w.seqAt l
  | none => w.seqAfter

end WaitPlace

section Wait
variable {w : WaitPlace} {l : AwaitLabel} {s : State}

theorem WaitPlace.seqAt_ne_seqAfter (w : WaitPlace) (l : AwaitLabel) : w.seqAt l ≠ w.seqAfter := by
  rcases w with _ | ⟨_ | _, m⟩ | m <;> simp [WaitPlace.seqAt, WaitPlace.seqAfter, Sender.seqAt]

theorem microMessage_wait (m : Message) (l : AwaitLabel) (s : State) :
    microMessage m (.wait l) s = ((microWait l s).1, some (((microWait l s).2.map .wait).getD .s1)) := by
  simp only [microMessage]
  rcases microWait l s with ⟨t, _ | l'⟩ <;> rfl

/-- At a label of the wait the micro-step is the wait's. -/
theorem microStep_wait (h : s.seq = w.seqAt l) : microStep s = (microWait l s).1.goto (w.seqNext (microWait l s).2) := by
  cases w with
  | await =>
    simp only [microStep, h, WaitPlace.seqAt, microAwait]
    rcases microWait l s with ⟨t, _ | l'⟩ <;> rfl
  | first x m =>
    rw [microStep_sender (x := x) (m := m) h, microMessage_wait]
    rcases microWait l s with ⟨t, _ | l'⟩ <;> rfl
  | second m =>
    simp only [microStep, h, WaitPlace.seqAt, microSendsync]
    rcases microWait l s with ⟨t, _ | l'⟩ <;> rfl

/-- At a label of the wait the poll that can fail is A0. -/
theorem pollFails_wait (h : s.seq = w.seqAt l) : pollFails s = (l == .a0 && txreqSet s) := by
  cases w with
  | first x m => rw [pollFails_sender (x := x) (m := m) h]; cases l <;> rfl
  | await | second m => cases l <;> simp [pollFails, h, WaitPlace.seqAt]

/-- A micro-step leaves the wait exactly when it is the read at A0 and `TXREQ` is 0 (R156, R170). -/
theorem microStep_seq_eq_seqAfter_iff (h : s.seq = w.seqAt l) : (microStep s).seq = w.seqAfter ↔ l = .a0 ∧ TxIdle s := by
  have hends : (microWait l s).2 = none ↔ l = .a0 ∧ TxIdle s := by
    rw [microWait_ends, txIdle_iff]
  rw [microStep_wait h, State.goto_seq, ← hends]
  cases (microWait l s).2 with
  | none => exact iff_of_true rfl rfl
  | some l' => exact iff_of_false (w.seqAt_ne_seqAfter l') nofun

/-- A0 with a message pending: on to A1 (R155). -/
theorem microStep_a0_pending (h : s.seq = w.seqAt .a0) (htx : s.bank.txreq = 1#1) : microStep s = s.goto (w.seqAt .a1) := by
  rw [microStep_wait h, microWait, if_pos ((txreqSet_iff s).2 htx)]
  rfl

/-- A0 with none pending: the wait is over (R156). -/
theorem microStep_a0_clear (h : s.seq = w.seqAt .a0) (htx : TxIdle s) : microStep s = s.goto w.seqAfter := by
  rw [microStep_wait h, microWait, txreqSet_of_txIdle htx]
  rfl

/-- A1 with a transmit error: on to the abort request (R157). -/
theorem microStep_a1_error (h : s.seq = w.seqAt .a1) (herr : s.bank.txerr = 1#1) : microStep s = s.goto (w.seqAt .a2) := by
  rw [microStep_wait h, microWait, if_pos ((txerrSet_iff s).2 herr)]
  rfl

/-- A1 without a transmit error: back to A0 (R155). -/
theorem microStep_a1_noError (h : s.seq = w.seqAt .a1) (herr : s.bank.txerr ≠ 1#1) : microStep s = s.goto (w.seqAt .a0) := by
  rw [microStep_wait h, microWait, if_neg (mt (txerrSet_iff s).1 herr)]
  rfl

/-- A2 requests the abort and goes back to A0 (R157). -/
theorem microStep_a2 (h : s.seq = w.seqAt .a2) : microStep s = (s.write .abortReq 1#8).goto (w.seqAt .a0) := microStep_wait h

end Wait

end Sys2Proof.Machine
end

section
/-! SUPPORT. The invariants over every step: which micro-steps keep the sequencer's (R137, R159, R161) and the bank's (R17, R18, R23,
R27), and the message in the peripheral's hands (R161). -/

namespace Sys2Proof.Machine

/-! ### The sequencer's invariant, label by label -/

/-- The sequencer's invariant looks at SEQ, the counter, the record of INIT and whether `TXREQ` is 0. -/
theorem seqOk_of_same {s t : State} (hseq : t.seq = s.seq) (hfsc : t.fsc = s.fsc) (hinit : t.initDone = s.initDone)
    (htx : TxIdle s → TxIdle t) (h : seqOk s = true) : seqOk t = true := by
  have hfilter (l : FilterLabel) : filterLabelOk t l = filterLabelOk s l := by
    cases l <;> simp only [filterLabelOk, hfsc, hinit]
  have hsend {m : Message} {l : SendLabel} (hl : sendLabelOk s m l = true) : sendLabelOk t m l = true := by
    cases l with
    | s0 | wait l => exact hl
    | s1 | s2 | s3 | s4 i | s5 => simp_all [sendLabelOk, TxIdle]
  cases e : s.seq with
  | idle | init | await => simp only [seqOk, hseq, e]
  | baud | setmode => simpa only [seqOk, hseq, e] using h
  | fstrict _ _ l => simpa only [seqOk, hseq, e, hfilter] using h
  | ffirst _ _ l => cases l <;> simpa only [seqOk, hseq, e, hfilter, hfsc, hinit] using h
  | send m l =>
    simp only [seqOk, hseq, e] at h ⊢
    exact hsend h
  | sendsync m l =>
    simp only [seqOk, hseq, e] at h ⊢
    cases l with
    | send l => exact hsend h
    | wait l => exact h

/-- FSTRICT's invariant at the label after a micro-step, or at its end. -/
def filterNextOk (s : State) : Option FilterLabel → Bool
  | some l => filterLabelOk s l
  | none => s.initDone && s.fsc != 0#8

theorem microFilter_labelOk {s : State} {l : FilterLabel} (nodeID messageType : Byte) (h : filterLabelOk s l = true) :
    filterNextOk (microFilter nodeID messageType l s).1 (microFilter nodeID messageType l s).2 = true := by
  cases l with
  | s0 => simpa [microFilter, filterNextOk, filterLabelOk] using h
  | s4 c =>
    simp only [filterLabelOk, Bool.and_eq_true, bne_iff_ne] at h
    obtain ⟨⟨hinit, -⟩, hc⟩ := h
    have hsucc : c + 1#8 ≠ 0#8 := by bv_omega
    simp [microFilter, filterNextOk, filterLabelOk, hinit, hsucc]
  | s1 c | s2 c | s3 c | s5 | s6 | s7 => exact h

/-- SEND's invariant at the label after a micro-step, or at its end. -/
def sendNextOk (s : State) (m : Message) : Option SendLabel → Bool
  | some l => sendLabelOk s m l
  | none => decide (m.dataLength.toNat ≤ 8)

theorem length_le_of_sendLabelOk {s : State} {m : Message} {l : SendLabel} (h : sendLabelOk s m l = true) :
    m.dataLength.toNat ≤ 8 := by
  cases l <;> simp_all [sendLabelOk]

theorem sendLabelOk_afterData {s : State} {m : Message} (hlen : m.dataLength.toNat ≤ 8) (htx : TxIdle s) (n : Nat) :
    sendLabelOk s m (afterData m n) = true := by
  unfold afterData
  split
  · split <;> simp_all [sendLabelOk]
  · simp_all [sendLabelOk]

theorem microMessage_labelOk {s : State} {m : Message} {l : SendLabel} (h : sendLabelOk s m l = true) :
    sendNextOk (microMessage m l s).1 m (microMessage m l s).2 = true := by
  have hlen := length_le_of_sendLabelOk h
  cases l with
  | s0 => exact h
  | wait l =>
    rw [microMessage_wait]
    cases l with
    | a0 =>
      cases htx : txreqSet s with
      | true => simpa [microWait, htx, sendNextOk, sendLabelOk] using hlen
      | false =>
        have hidle : TxIdle s := (txIdle_iff s).2 fun h1 => by simp [txreqSet, h1] at htx
        simp [microWait, htx, sendNextOk, sendLabelOk, hlen, hidle]
    | a1 | a2 => exact h
  | s1 | s2 => exact h
  | s3 | s4 i =>
    have htx : TxIdle s := by simp_all [sendLabelOk, TxIdle]
    exact sendLabelOk_afterData hlen htx _
  | s5 => simpa [microMessage, sendNextOk] using hlen

/-- The invariant with SEQ at a label of FSTRICT, or of FFIRST in its place. -/
theorem seqOk_goto_fstrict (s : State) (nodeID messageType : Byte) (l : FilterLabel) :
    seqOk (s.goto (.fstrict nodeID messageType l)) = filterLabelOk s l := by
  cases l <;> rfl

theorem seqOk_goto_ffirst (s : State) (nodeID messageType : Byte) (l : FilterLabel) :
    seqOk (s.goto (.ffirst nodeID messageType (.strict l))) = filterLabelOk s l := by
  cases l <;> rfl

/-- The invariant with SEQ after a micro-step of SEND. -/
theorem seqOk_goto_seqNext {s : State} {m : Message} {next : Option SendLabel} (x : Sender) (h : sendNextOk s m next = true) :
    seqOk (s.goto (x.seqNext m next)) = true := by
  cases next with
  | none =>
    cases x with
    | send => rfl
    | sendsync => exact h
  | some l => cases x <;> cases l <;> exact h

theorem sendLabelOk_of_seqOk {s : State} {x : Sender} {m : Message} {l : SendLabel} (hq : s.seq = x.seqAt m l)
    (h : seqOk s = true) : sendLabelOk s m l = true := by
  cases x <;> simpa only [seqOk, hq, Sender.seqAt] using h

theorem microStep_sender_seqOk {s : State} {x : Sender} {m : Message} {l : SendLabel} (hq : s.seq = x.seqAt m l)
    (h : seqOk s = true) : seqOk (microStep s) = true := by
  rw [microStep_sender hq]
  exact seqOk_goto_seqNext x (microMessage_labelOk (sendLabelOk_of_seqOk hq h))

/-- A micro-step keeps the sequencer's invariant. -/
theorem microStep_seqOk {s : State} (h : seqOk s = true) : seqOk (microStep s) = true := by
  cases e : s.seq with
  | idle => rwa [microStep_idle e]
  | baud _ _ l =>
    simp only [seqOk, e] at h
    cases l with
    | s0 | s1 => simp only [microStep, e, microBaud, seqOk, State.goto_seq, h]
    | s2 => simp only [microStep, e, microBaud, seqOk, State.goto_seq]
  | init r l => cases l <;> simp only [microStep, e, microInit, seqOk, State.goto_seq]
  | setmode target l =>
    simp only [seqOk, e] at h
    cases l with
    | s0 | s3 => by_cases hm : modeReports target s <;> simp [microStep, e, microSetmode, seqOk, hm, h]
    | s1 | s2 => simp only [microStep, e, microSetmode, seqOk, State.goto_seq, h]
  | fstrict n mt l =>
    simp only [seqOk, e] at h
    have hnext := microFilter_labelOk n mt h
    simp only [microStep, e, microFstrict]
    split
    · next hm =>
      rw [hm] at hnext
      exact (seqOk_goto_fstrict _ n mt _).trans hnext
    · rfl
  | ffirst n mt l =>
    cases l with
    | strict l =>
      simp only [seqOk, e] at h
      have hnext := microFilter_labelOk n mt h
      simp only [microStep, e, microFfirst]
      split
      · next hm =>
        rw [hm] at hnext
        exact (seqOk_goto_ffirst _ n mt _).trans hnext
      · next hm =>
        rw [hm] at hnext
        exact hnext
    | s8 =>
      simp only [seqOk, e] at h
      simp only [microStep, e, microFfirst]
      exact h
    | s9 => simp only [seqOk, microStep, e, microFfirst, State.goto_seq]
  | await l => rw [microStep_wait (w := .await) e]; cases (microWait l s).2 <;> rfl
  | send m l => exact microStep_sender_seqOk (x := .send) e h
  | sendsync m l =>
    cases l with
    | send l => exact microStep_sender_seqOk (x := .sendsync) e h
    | wait l =>
      simp only [seqOk, e] at h
      rw [microStep_wait (w := .second m) e]
      cases (microWait l s).2 with
      | none => rfl
      | some l' => exact h

/-- What the sequencer's invariant and a micro-step carry on holds after many. -/
theorem microSteps_induct_seqOk {P : State → Prop} (next : ∀ u, seqOk u = true → P u → P (microStep u)) (k : Nat) {s : State}
    (hok : seqOk s = true) (start : P s) : seqOk (microSteps k s) = true ∧ P (microSteps k s) := by
  induction k generalizing s with
  | zero => exact ⟨hok, start⟩
  | succ k ih => exact ih (microStep_seqOk hok) (next s hok start)

/-! ### The bank's invariant, register by register -/

/-- The value is one the block puts there: a length of at most 8 (R18), an identifier in standard format (R17, R23), a mode code
(R27). -/
def fitsBank (r : Reg) (v : Byte) : Bool :=
  match r with
  | .txdlc => decide ((v.setWidth 4).toNat ≤ 8)
  | .txidL => standardFormat v
  | .filtL _ => standardFormat v
  | .modeReq => (Mode.ofCode? (v.setWidth 3)).isSome
  | _ => true

theorem bankOk_regWrite {b : Bank} {r : Reg} {v : Byte} (h : bankOk b = true) (hv : fitsBank r v = true) :
    bankOk (regWrite b r v) = true := by
  cases r with
  | txdlc | txidL | modeReq => simp_all [bankOk, regWrite, fitsBank]
  | filtL n => cases n <;> simp_all [bankOk, regWrite, fitsBank, setFilterBank, filterBank]
  | filtH n | filtEn n => cases n <;> exact h
  | _ => exact h

theorem bankOk_setPins {b : Bank} (h : bankOk b = true) (r : Routing) (p : PinPair) : bankOk (setPins b r p) = true := by
  cases r <;> exact h

/-- HDR2B's low byte is in standard format. -/
theorem standardFormat_headerToBytes (nodeID messageType : Byte) :
    standardFormat (headerToBytes nodeID messageType).2 = true := by
  have hlow : (idLow nodeID).toNat % 32 = 0 := by rw [toNat_idLow]; omega
  rw [headerToBytes_eq, standardFormat, (and_0x1F_eq_zero_iff _).2 hlow]
  rfl

theorem microFilter_bankOk {s : State} (nodeID messageType : Byte) (l : FilterLabel) (h : BankInv s) :
    BankInv (microFilter nodeID messageType l s).1 := by
  cases l with
  | s0 | s4 c => exact h
  | s2 c => exact bankOk_regWrite h (standardFormat_headerToBytes nodeID messageType)
  | s1 c | s3 c | s5 | s6 | s7 => exact bankOk_regWrite h rfl

theorem microWait_bankOk {s : State} (l : AwaitLabel) (h : BankInv s) : BankInv (microWait l s).1 := by
  cases l with
  | a0 | a1 => exact h
  | a2 => exact bankOk_regWrite h rfl

theorem microMessage_bankOk {s : State} {m : Message} (hlen : m.dataLength.toNat ≤ 8) (l : SendLabel) (h : BankInv s) :
    BankInv (microMessage m l s).1 := by
  cases l with
  | s0 => exact h
  | wait l => rw [microMessage_wait]; exact microWait_bankOk l h
  | s2 => exact bankOk_regWrite h (standardFormat_headerToBytes _ _)
  | s3 =>
    have hfits : fitsBank .txdlc (m.dataLength.setWidth 8) = true := by
      rw [fitsBank, setWidth_setWidth_byte m.dataLength (by decide)]
      exact decide_eq_true hlen
    exact bankOk_regWrite h hfits
  | s1 | s4 i | s5 => exact bankOk_regWrite h rfl

theorem microStep_sender_bankOk {s : State} {x : Sender} {m : Message} {l : SendLabel} (hq : s.seq = x.seqAt m l)
    (hok : seqOk s = true) (h : BankInv s) : BankInv (microStep s) := by
  rw [microStep_sender hq]
  exact microMessage_bankOk (length_le_of_sendLabelOk (sendLabelOk_of_seqOk hq hok)) l h

/-- A micro-step of a command that was not refused keeps the bank's invariant. -/
theorem microStep_bankOk {s : State} (hok : seqOk s = true) (h : BankInv s) : BankInv (microStep s) := by
  cases e : s.seq with
  | idle => rwa [microStep_idle e]
  | baud _ _ l => simp only [microStep, e]; cases l <;> exact bankOk_regWrite h rfl
  | init r l =>
    simp only [microStep, e]
    cases l with
    | s0 | s1 => exact bankOk_setPins h r _
    | s2 => exact bankOk_regWrite h rfl
    | s3 | s4 => exact h
  | setmode target l =>
    simp only [microStep, e]
    cases l with
    | s1 =>
      have hfits : fitsBank .modeReq ((trunc3 target).setWidth 8) = true := by
        simp only [seqOk, e, legalTarget] at hok
        rw [fitsBank, setWidth_setWidth_byte (trunc3 target) (by decide), hok]
      exact bankOk_regWrite h hfits
    | s0 | s2 | s3 => exact h
  | fstrict n mt l =>
    have hnext := microFilter_bankOk n mt l h
    simp only [microStep, e, microFstrict]
    split <;> next hm => rw [hm] at hnext; exact hnext
  | ffirst n mt l =>
    simp only [microStep, e]
    cases l with
    | strict l =>
      have hnext := microFilter_bankOk n mt l h
      simp only [microFfirst]
      split <;> next hm => rw [hm] at hnext; exact hnext
    | s8 | s9 => exact bankOk_regWrite h rfl
  | await l => rw [microStep_wait (w := .await) e]; exact microWait_bankOk l h
  | send m l => exact microStep_sender_bankOk (x := .send) e hok h
  | sendsync m l =>
    cases l with
    | send l => exact microStep_sender_bankOk (x := .sendsync) e hok h
    | wait l => rw [microStep_wait (w := .second m) e]; exact microWait_bankOk l h

/-- Another agent's turn keeps the bank's invariant, but for the main line's direct writes outside any command. -/
theorem perform_bankOk {s : State} {a : Act} (hno : ¬ (s.seq = .idle ∧ ∃ r v, a = .hostWritesRegister r v)) (h : BankInv s) :
    BankInv (perform a s) := by
  cases a with
  | periphClearsTxreq | periphSetsTxerr | periphClearsAbort | periphReportsMode => exact bankOk_regWrite h rfl
  | hostSetsDirTx r d | hostSetsDirRx r d =>
    simp only [perform]
    split
    · exact bankOk_setPins h r _
    · exact h
  | hostWritesRegister r v =>
    have hbusy : s.isIdle = false := by simpa [State.isIdle] using hno
    simpa [perform, hbusy] using h
  | hostWritesCode | hostWritesTimestamp | hostEvaluates => exact h

/-! ### The timestamp -/

/-- `TS.timestamp` fits TS_WIDTH bits (R15). -/
abbrev TimestampFits (s : State) : Prop := s.timestamp < 2 ^ s.params.timestampWidth

theorem setTimestamp_fits (s : State) (v : Nat) : TimestampFits (s.setTimestamp v) := Nat.mod_lt _ (Nat.two_pow_pos _)

theorem perform_timestampFits {s : State} (a : Act) (h : TimestampFits s) : TimestampFits (perform a s) := by
  cases a with
  | hostWritesTimestamp v => exact setTimestamp_fits s v
  | hostSetsDirTx | hostSetsDirRx | hostWritesRegister => simp only [perform]; split <;> exact h
  | _ => exact h

theorem step_timestampFits {s t : State} (hstep : step s = .next t) (h : TimestampFits s) : TimestampFits t := by
  rcases step_agent_cases hstep with ⟨a, rest, -, rfl⟩ | ⟨_, _, _, rfl⟩ | ⟨i, -, hown⟩
  · exact perform_timestampFits a h
  · exact h
  · rw [TimestampFits, hown.timestamp, hown.params]
    exact h

/-! ### A step from a state that meets the sequencer's invariant -/

/-- The block's turn is micro-steps, after the agenda gave up an entry or not. -/
theorem blockTurn_eq_microSteps (s : State) : ∃ k rest, blockTurn s = microSteps k { s with agenda := rest } := by
  rcases blockTurn_cases s with ⟨-, k, -, e⟩ | ⟨k, rest, -, e⟩ | ⟨a, rest, -, e⟩
  · exact ⟨k, s.agenda, e⟩
  · exact ⟨k, rest, e⟩
  · exact ⟨0, s.agenda, e⟩

theorem length_le_iff (m : Message) : m.dataLength ≤ 8#4 ↔ m.dataLength.toNat ≤ 8 := BitVec.le_def

/-- A stateful command that has a meaning starts at a label where the sequencer's invariant holds (R116, R129, R146, R159, R202). -/
theorem exec_starts {i : Instr} (h : i.isPure = false) (s : State) :
    ∃ first refusal, commandOf first = some i ∧ (refusal = none → seqOk (s.goto first) = true) ∧
      exec i s = acceptCommand first refusal s := by
  have hfilter : filterRefusal s = none → filterLabelOk s .s0 = true := by
    unfold filterRefusal
    split
    · next hinit => split <;> simp_all [filterLabelOk]
    · nofun
  have hmessage (m : Message) : messageRefusal m = none → decide (m.dataLength.toNat ≤ 8) = true := by
    simp [messageRefusal, length_le_iff]
  cases i with
  | hdr2b | b2hdr | penc | pdecop => cases h
  | baud bitrate clock =>
    exact ⟨.baud bitrate clock .s0, baudRefusal bitrate, rfl, by simp [baudRefusal, seqOk], rfl⟩
  | init r => exact ⟨.init r .s0, none, rfl, fun _ => rfl, rfl⟩
  | setmode target => exact ⟨.setmode target .s0, setmodeRefusal target, rfl, by simp [setmodeRefusal, seqOk], rfl⟩
  | fstrict n mt => exact ⟨.fstrict n mt .s0, filterRefusal s, rfl, hfilter, rfl⟩
  | ffirst n mt => exact ⟨.ffirst n mt (.strict .s0), filterRefusal s, rfl, hfilter, rfl⟩
  | await => exact ⟨.await .a0, none, rfl, fun _ => rfl, rfl⟩
  | send m => exact ⟨.send m .s0, messageRefusal m, rfl, hmessage m, rfl⟩
  | sendsync m => exact ⟨.sendsync m (.send .s0), messageRefusal m, rfl, hmessage m, rfl⟩

/-- What a command's execution leaves is some micro-steps of it from the same bank, the invariant holding at their start. -/
theorem exec_eq_microSteps {i : Instr} {s t : State} (h : exec i s = .next t) (hok : seqOk s = true) :
    ∃ k u, t = microSteps k u ∧ seqOk u = true ∧ u.bank = s.bank ∧ (k = 0 ∨ commandOf u.seq = some i) := by
  cases hp : i.isPure with
  | true =>
    obtain ⟨r, -, e⟩ := exec_pure hp s
    cases e.symm.trans h
    exact ⟨0, _, rfl, hok, rfl, .inl rfl⟩
  | false =>
    obtain ⟨first, refusal, hfirst, hstart, e⟩ := exec_starts hp s
    rw [e] at h
    rcases acceptCommand_cases first refusal s with ⟨-, ha⟩ | ⟨-, r, -, ha⟩ | ⟨-, hr, ha⟩ <;> cases ha.symm.trans h
    · exact ⟨0, s, rfl, hok, rfl, .inl rfl⟩
    · obtain ⟨k, rest, e⟩ := blockTurn_eq_microSteps (s.goto first)
      exact ⟨k, _, e, hstart hr, rfl, .inr hfirst⟩

/-- A step is another agent's turn, or some micro-steps from the same bank, the invariant holding at their start. -/
theorem step_eq_perform_or_microSteps {s t : State} (h : step s = .next t) (hok : seqOk s = true) :
    (∃ a rest, s.agenda = .agent a :: rest ∧ t = perform a { s with agenda := rest }) ∨
    (∃ k u, t = microSteps k u ∧ seqOk u = true ∧ u.bank = s.bank) := by
  rcases step_cases h with hagent | ⟨-, ⟨-, rfl⟩ | ⟨w, rest, i, -, -, -, he⟩⟩
  · exact .inl hagent
  · obtain ⟨k, rest, e⟩ := blockTurn_eq_microSteps s
    exact .inr ⟨k, _, e, hok, rfl⟩
  · obtain ⟨k, u, e, hu, hbank, -⟩ := exec_eq_microSteps he hok
    exact .inr ⟨k, u, e, hu, hbank⟩

theorem perform_seqOk {s : State} (a : Act) (h : seqOk s = true) : seqOk (perform a s) = true := by
  obtain ⟨-, hseq, hinit, -, -⟩ := perform_frame s a
  exact seqOk_of_same hseq (perform_fsc s a) hinit (perform_txreq s a) h

theorem step_inv {s t : State} (h : step s = .next t) (hinv : Inv s) : Inv t := by
  refine ⟨?_, step_timestampFits h hinv.timestamp⟩
  rcases step_eq_perform_or_microSteps h hinv.seq with ⟨a, rest, -, rfl⟩ | ⟨k, u, rfl, hok, -⟩
  · exact perform_seqOk (s := { s with agenda := rest }) a hinv.seq
  · exact (microSteps_induct_seqOk (P := fun _ => True) (fun _ _ _ => trivial) k hok trivial).1

theorem step_bankInv {s t : State} (h : step s = .next t) (hok : seqOk s = true) (hno : ¬ HostWritesDirectly s)
    (hbank : BankInv s) : BankInv t := by
  rcases step_eq_perform_or_microSteps h hok with ⟨a, rest, ha, rfl⟩ | ⟨k, u, rfl, hu, hsame⟩
  · refine perform_bankOk (s := { s with agenda := rest }) ?_ hbank
    rintro ⟨hi, r, v, rfl⟩
    exact hno ⟨r, hi, v, rest, ha⟩
  · exact (microSteps_induct_seqOk (fun _ => microStep_bankOk) k hu (by rwa [BankInv, hsame])).2

/-- A direct write of the host outside any command keeps the invariant, for there is no label to break. -/
theorem writeDirectly_inv {s : State} (hinv : Inv s) (hi : SeqIdle s) (w : DirectWrite) : Inv (writeDirectly w s) := by
  refine ⟨?_, ?_⟩
  · have hseq : (writeDirectly w s).seq = .idle := by rw [writeDirectly_frame]; exact hi
    simp only [seqOk, hseq]
  · cases w with
    | timestamp v => exact setTimestamp_fits s v
    | _ => exact hinv.timestamp

/-! ### The message in the peripheral's hands -/

/-- The registers that hold the message handed over, and the request itself (R52). -/
def holdsMessage : Reg → Bool
  | .txidH => true
  | .txidL => true
  | .txdlc => true
  | .txd _ => true
  | .txreq => true
  | _ => false

/-- Of the commands SEND and SENDSYNC alone write these registers. -/
theorem isTransmit_of_holdsMessage {i : Instr} {r : Reg} (hr : holdsMessage r = true) (hw : blockWrites i r = true) :
    IsTransmit i := by
  cases i with
  | send m => exact ⟨m, .inl rfl⟩
  | sendsync m => exact ⟨m, .inr rfl⟩
  | _ => cases r <;> cases hr <;> cases hw

/-- Of the peripheral's steps its own clear of `TXREQ` alone writes one of them (R48). -/
theorem periphWrites_holdsMessage {a : Act} {r : Reg} (hr : holdsMessage r = true) (hw : periphWrites a r = true) :
    r = .txreq ∧ a = .periphClearsTxreq := by
  cases a with
  | periphClearsTxreq => exact ⟨beq_iff_eq.1 hw, rfl⟩
  | periphSetsTxerr | periphClearsAbort | periphReportsMode =>
    obtain rfl := beq_iff_eq.1 hw
    cases hr
  | _ => cases hw

section Pending
variable {s : State} {r : Reg} (htx : s.bank.txreq = 1#1) (hr : holdsMessage r = true)

include hr in
theorem microWait_holdsMessage (l : AwaitLabel) : regRead (microWait l s).1.bank r = regRead s.bank r := by
  cases l with
  | a0 | a1 => rfl
  | a2 => exact regRead_regWrite_other s.bank _ (by rintro rfl; cases hr)

include htx hr

/-- With `TXREQ` = 1 SEND is before its wait or in it, and writes nothing of the message (R161). -/
theorem microMessage_holdsMessage {m : Message} {l : SendLabel} (hok : sendLabelOk s m l = true) :
    regRead (microMessage m l s).1.bank r = regRead s.bank r := by
  cases l with
  | s0 => rfl
  | wait l => rw [microMessage_wait]; exact microWait_holdsMessage hr l
  | s1 | s2 | s3 | s4 i | s5 => simp [sendLabelOk, htx] at hok

/-- With `TXREQ` = 1 a micro-step writes nothing of the message, nor `TXREQ` (R161). -/
theorem microStep_holdsMessage (hok : seqOk s = true) : regRead (microStep s).bank r = regRead s.bank r := by
  have hsender {x : Sender} {m : Message} {l : SendLabel} (hq : s.seq = x.seqAt m l) :
      regRead (microStep s).bank r = regRead s.bank r := by
    rw [microStep_sender hq]
    exact microMessage_holdsMessage htx hr (sendLabelOk_of_seqOk hq hok)
  cases hc : commandOf s.seq with
  | none => rw [microStep_idle (commandOf_eq_none hc)]
  | some i =>
    refine ((microStep_ownChanges s hc).regs r).elim id fun hw => ?_
    cases e : s.seq with
    | send m l => exact hsender (x := .send) e
    | sendsync m l =>
      cases l with
      | send l => exact hsender (x := .sendsync) e
      | wait l => rw [microStep_wait (w := .second m) e]; exact microWait_holdsMessage hr l
    | _ =>
      obtain ⟨m, rfl | rfl⟩ := isTransmit_of_holdsMessage hr hw <;> rw [e] at hc <;> cases hc

end Pending

theorem microSteps_holdsMessage {s : State} (k : Nat) (hok : seqOk s = true) (htx : s.bank.txreq = 1#1) :
    ∀ r, holdsMessage r = true → regRead (microSteps k s).bank r = regRead s.bank r := by
  refine (microSteps_induct_seqOk (P := fun u => ∀ r, holdsMessage r = true → regRead u.bank r = regRead s.bank r)
    (fun u hu hsame r hr => ?_) k hok fun _ _ => rfl).2
  have hpending : u.bank.txreq = 1#1 :=
    (setWidth_eq_one_iff _).1 ((hsame .txreq rfl).trans ((setWidth_eq_one_iff _).2 htx))
  exact (microStep_holdsMessage hpending hr hu).trans (hsame r hr)

/-- With `TXREQ` = 1 a step writes nothing of the message, and `TXREQ` only by the peripheral's own clear, but for a direct write of
the host's main line. -/
theorem step_holdsMessage {s t : State} (h : step s = .next t) (hok : seqOk s = true) (htx : s.bank.txreq = 1#1)
    (hno : ¬ HostWritesDirectly s) {r : Reg} (hr : holdsMessage r = true) :
    regRead t.bank r = regRead s.bank r ∨ (r = .txreq ∧ AgentTurn .periphClearsTxreq s) := by
  rcases step_eq_perform_or_microSteps h hok with ⟨a, rest, ha, rfl⟩ | ⟨k, u, rfl, hu, hbank⟩
  · rcases perform_regRead a { s with agenda := rest } r with e | hw | ⟨hi, v, rfl⟩
    · exact .inl e
    · obtain ⟨htxreq, rfl⟩ := periphWrites_holdsMessage hr hw
      exact .inr ⟨htxreq, rest, ha⟩
    · exact absurd ⟨r, hi, v, rest, ha⟩ hno
  · rw [← hbank]
    exact .inl (microSteps_holdsMessage k hu (by rwa [hbank]) r hr)

/-- Banks that read alike in the data registers hold the same data. -/
theorem txd_eq_of_regRead {b c : Bank} (h : ∀ i, regRead b (.txd i) = regRead c (.txd i)) : b.txd = c.txd :=
  Vector.ext fun i hi => h ⟨i, hi⟩

/-! ### The obligations -/

/-- Settles O47: with `TXREQ` = 1 the sequencer's invariant leaves SEND no label at which it writes the buffer. -/
theorem transmitBufferIsSafeWhileThePeripheralOwnsIt : Obligations.TransmitBufferIsSafeWhileThePeripheralOwnsIt := by
  unfold Obligations.TransmitBufferIsSafeWhileThePeripheralOwnsIt
  intro s t hinv htx hno h
  have hkept {r : Reg} (hr : holdsMessage r = true) := step_holdsMessage h hinv.seq htx hno hr
  have hsame {r : Reg} (hr : holdsMessage r = true) (hne : r ≠ .txreq) : regRead t.bank r = regRead s.bank r :=
    (hkept hr).resolve_right fun hclear => hne hclear.1
  have hdlc : t.bank.txdlc = s.bank.txdlc := by
    have hread := congrArg (BitVec.setWidth 4) (hsame (r := .txdlc) rfl nofun)
    simpa only [regRead, setWidth_setWidth_byte _ (show 4 ≤ 8 by decide)] using hread
  refine ⟨hsame (r := .txidH) rfl nofun, hsame (r := .txidL) rfl nofun, hdlc,
    txd_eq_of_regRead fun i => hsame (r := .txd i) rfl nofun, ?_⟩
  rcases hkept (r := .txreq) rfl with e | ⟨-, hclear⟩
  · exact .inl ((setWidth_eq_one_iff _).1 (e.trans ((setWidth_eq_one_iff _).2 htx)))
  · exact .inr hclear

/-- Settles O48: micro-steps and the other agents' turns keep both invariants; a direct write finds no label to break. -/
theorem everyStepKeepsTheInvariant : Obligations.EveryStepKeepsTheInvariant := by
  unfold Obligations.EveryStepKeepsTheInvariant
  exact fun s hinv => ⟨fun t h => ⟨step_inv h hinv, fun hbank hno => step_bankInv h hinv.seq hno hbank⟩, writeDirectly_inv hinv⟩

end Sys2Proof.Machine
end

section
/-! SUPPORT. The wait by itself: its iteration (R155 to R157), its end (R170), and AWAIT while `TXREQ` stays 1 (R170, R192). -/

namespace Sys2Proof.Machine

theorem State.goto_self {s : State} {q : Seq} (h : s.seq = q) : s.goto q = s := by
  subst h
  rfl

/-! ### AWAIT while a message is pending -/

/-- AWAIT is in progress, no other agent has a turn left, and a message is pending. -/
structure AwaitPending (s : State) : Prop where
  label : ∃ l, s.seq = .await l
  undisturbed : Undisturbed s
  pending : s.bank.txreq = 1#1

theorem AwaitPending.microStep {s : State} (h : AwaitPending s) : AwaitPending (microStep s) := by
  obtain ⟨⟨l, hl⟩, ha, htx⟩ := h
  have hgoto (l' : AwaitLabel) (b : Bank) (hb : b.txreq = 1#1) : AwaitPending ((s.withBank b).goto (.await l')) :=
    ⟨⟨l', rfl⟩, ha, hb⟩
  cases l with
  | a0 =>
    rw [microStep_a0_pending (w := .await) hl htx]
    exact hgoto .a1 s.bank htx
  | a1 =>
    by_cases herr : s.bank.txerr = 1#1
    · rw [microStep_a1_error (w := .await) hl herr]
      exact hgoto .a2 s.bank htx
    · rw [microStep_a1_noError (w := .await) hl herr]
      exact hgoto .a0 s.bank htx
  | a2 =>
    rw [microStep_a2 (w := .await) hl]
    exact hgoto .a0 _ htx

theorem AwaitPending.microSteps {s : State} (h : AwaitPending s) (k : Nat) : AwaitPending (microSteps k s) := by
  induction k generalizing s with
  | zero => exact h
  | succ k ih => exact ih h.microStep

/-- Of the bank `ABORT_REQ` alone may have changed. -/
abbrev ChangesAbortOnly (b c : Bank) : Prop := c = { b with abortReq := c.abortReq }

theorem AwaitPending.step {s : State} (h : AwaitPending s) :
    ∃ t, step s = .next t ∧ AwaitPending t ∧ ChangesAbortOnly s.bank t.bank := by
  obtain ⟨l, hl⟩ := h.label
  have hbusy : s.seq ≠ .idle := by rw [hl]; nofun
  rcases step_busy_cases hbusy with ⟨a, rest, e, -⟩ | ⟨later, res, e⟩ | ⟨-, e⟩
  · exact absurd (h.undisturbed.symm.trans e) (by simp)
  · exact ⟨_, e, ⟨⟨l, hl⟩, h.undisturbed, h.pending⟩, rfl⟩
  · have hwork : Works .await s (blockTurn s) := .inr ⟨by rw [hl]; rfl, rfl⟩
    obtain ⟨q, rest, a, hframe⟩ := works_await_frame hwork
    obtain ⟨k, -, hturn⟩ := runUndisturbed_eq undisturbedBound s
    have hblock : blockTurn s = Machine.microSteps k s := by simp only [blockTurn, h.undisturbed, hturn]
    exact ⟨_, e, hblock ▸ h.microSteps k, by rw [hframe]⟩

/-- However long it runs, AWAIT stays in progress. -/
theorem AwaitPending.runsTo {s : State} (h : AwaitPending s) (k : Nat) :
    ∃ t, RunsTo k s t ∧ AwaitPending t ∧ ChangesAbortOnly s.bank t.bank := by
  induction k with
  | zero => exact ⟨s, rfl, h, rfl⟩
  | succ k ih =>
    obtain ⟨t, ht, hpending, hbank⟩ := ih
    obtain ⟨u, hu, hpending, hbank'⟩ := hpending.step
    exact ⟨u, runsTo_snoc ht hu, hpending, hbank'.trans (by rw [hbank])⟩

/-! ### The wait when none is pending -/

/-- A micro-step that is no failed poll begins the undisturbed run. -/
theorem runUndisturbed_succ {s : State} (h : pollFails s = false) (n : Nat) :
    runUndisturbed (n + 1) s = runUndisturbed n (microStep s) := by
  rw [runUndisturbed, h]
  rfl

section Clear
variable {w : WaitPlace} {l : AwaitLabel} {s : State}

theorem runUndisturbed_a0_clear (h : s.seq = w.seqAt .a0) (htx : TxIdle s) (n : Nat) :
    runUndisturbed (n + 1) s = runUndisturbed n (s.goto w.seqAfter) := by
  have hpoll : pollFails s = false := by rw [pollFails_wait h, txreqSet_of_txIdle htx, Bool.and_false]
  rw [runUndisturbed_succ hpoll, microStep_a0_clear h htx]

theorem runUndisturbed_a2_clear (h : s.seq = w.seqAt .a2) (htx : TxIdle s) (n : Nat) :
    runUndisturbed (n + 2) s = runUndisturbed n ((s.write .abortReq 1#8).goto w.seqAfter) := by
  have hpoll : pollFails s = false := pollFails_wait h
  have hclear : TxIdle ((s.write .abortReq 1#8).goto (w.seqAt .a0)) := htx
  rw [runUndisturbed_succ hpoll, microStep_a2 h, runUndisturbed_a0_clear (State.goto_seq _ _) hclear]
  rfl

/-- `ABORT_REQ` after a wait that finds `TXREQ` = 0 from this label on: the request is made at A2, or from A1 if `TXERR` is 1
(R157). -/
def abortAfterWait (l : AwaitLabel) (b : Bank) : BitVec 1 :=
  if l = .a2 ∨ (l = .a1 ∧ b.txerr = 1#1) then 1#1 else b.abortReq

/-- Where an undisturbed wait ends that finds `TXREQ` = 0. -/
def waitOver (w : WaitPlace) (l : AwaitLabel) (s : State) : State :=
  (s.withBank { s.bank with abortReq := abortAfterWait l s.bank }).goto w.seqAfter

/-- With `TXREQ` = 0 an undisturbed wait is over after three micro-steps at the most. -/
theorem runUndisturbed_wait_clear (h : s.seq = w.seqAt l) (htx : TxIdle s) (n : Nat) :
    ∃ r ≥ n, runUndisturbed (n + 3) s = runUndisturbed r (waitOver w l s) := by
  cases l with
  | a0 => exact ⟨n + 2, by omega, runUndisturbed_a0_clear h htx (n + 2)⟩
  | a1 =>
    have hpoll : pollFails s = false := pollFails_wait h
    rw [runUndisturbed_succ hpoll]
    by_cases herr : s.bank.txerr = 1#1
    · have hclear : TxIdle (s.goto (w.seqAt .a2)) := htx
      rw [microStep_a1_error h herr, runUndisturbed_a2_clear (State.goto_seq _ _) hclear]
      refine ⟨n, le_refl n, ?_⟩
      simp [waitOver, abortAfterWait, herr, State.goto, State.write, State.withBank, regWrite]
    · have hclear : TxIdle (s.goto (w.seqAt .a0)) := htx
      rw [microStep_a1_noError h herr, runUndisturbed_a0_clear (State.goto_seq _ _) hclear]
      refine ⟨n + 1, by omega, ?_⟩
      simp [waitOver, abortAfterWait, herr, State.goto, State.withBank]
  | a2 => exact ⟨n + 1, by omega, runUndisturbed_a2_clear h htx (n + 1)⟩

end Clear

/-! ### The obligations -/

/-- Settles O35: the one read finds `TXREQ` = 0. -/
theorem awaitIsCompleteWhenNothingIsPending : Obligations.AwaitIsCompleteWhenNothingIsPending := by
  unfold Obligations.AwaitIsCompleteWhenNothingIsPending
  refine ⟨(decode_eq_ok_iff _ _).2 rfl, fun s hi ha htx => ?_⟩
  have haccepted : exec .await s = .next (blockTurn (s.goto (.await .a0))) := acceptCommand_accepted hi rfl
  have hback : (s.goto (.await .a0)).goto .idle = s := State.goto_self hi
  rw [haccepted, blockTurn, State.goto_agenda, ha]
  simp only [undisturbedBound, runUndisturbed_a0_clear (w := .await) (s := s.goto (.await .a0)) rfl htx, WaitPlace.seqAfter, hback,
    runUndisturbed_idle _ hi]

/-- Settles O36, label by label. -/
theorem oneIterationOfTheWait : Obligations.OneIterationOfTheWait := by
  unfold Obligations.OneIterationOfTheWait
  intro s hq
  have h : s.seq = WaitPlace.await.seqAt .a0 := hq
  refine ⟨fun htx herr => ?_, fun htx herr => ?_, microStep_a0_clear h⟩
  · have hrun : microSteps 3 s = (s.write .abortReq 1#8).goto (WaitPlace.await.seqAt .a0) := by
      simp only [microSteps]
      rw [microStep_a0_pending h htx, microStep_a1_error (State.goto_seq s _) herr, microStep_a2 (State.goto_seq _ _)]
      rfl
    rw [hrun]
    exact State.goto_self (s := s.write .abortReq 1#8) h
  · have hrun : microSteps 2 s = s.goto (WaitPlace.await.seqAt .a0) := by
      have hne : s.bank.txerr ≠ 1#1 := by rw [herr]; decide
      simp only [microSteps]
      rw [microStep_a0_pending h htx, microStep_a1_noError (State.goto_seq s _) hne]
      rfl
    rw [hrun, State.goto_self h]

/-- Settles O37, for the four places of the wait at once. -/
theorem waitEndsExactlyWhenTxreqReadsZero : Obligations.WaitEndsExactlyWhenTxreqReadsZero := by
  unfold Obligations.WaitEndsExactlyWhenTxreqReadsZero
  exact fun l m s => ⟨microStep_seq_eq_seqAfter_iff (w := .await), microStep_seq_eq_seqAfter_iff (w := .first .send m),
    microStep_seq_eq_seqAfter_iff (w := .first .sendsync m), microStep_seq_eq_seqAfter_iff (w := .second m)⟩

/-- Settles O38: every step keeps AWAIT in progress and `TXREQ` as it is. -/
theorem awaitNeverFinishesWhileTxreqStays : Obligations.AwaitNeverFinishesWhileTxreqStays := by
  unfold Obligations.AwaitNeverFinishesWhileTxreqStays
  intro l s k hl ha htx
  obtain ⟨t, hrun, hpending, hbank⟩ := AwaitPending.runsTo ⟨⟨l, hl⟩, ha, htx⟩ k
  exact ⟨t, hrun, hpending.label, hbank⟩

end Sys2Proof.Machine
end

section
/-! SUPPORT. SEND and SENDSYNC once the wait is over: their writes from `S1` to `S5` in closed form (R162 to R167), undisturbed runs
from acceptance and out of the wait (R158, R160, R161, R168), and the words of format T (R64). -/

namespace Sys2Proof

/-- Format T: a message above its opcode (R64). -/
theorem encodeMessage_eq_ofNat (m : Message) (op : BitVec 4) :
    encodeMessage m op = BitVec.ofNat 88 (op.toNat + m.nodeID.toNat * 2 ^ 4 + m.messageType.toNat * 2 ^ 12
      + m.dataLength.toNat * 2 ^ 20 + m.data[0].toNat * 2 ^ 24 + m.data[1].toNat * 2 ^ 32 + m.data[2].toNat * 2 ^ 40
      + m.data[3].toNat * 2 ^ 48 + m.data[4].toNat * 2 ^ 56 + m.data[5].toNat * 2 ^ 64 + m.data[6].toNat * 2 ^ 72
      + m.data[7].toNat * 2 ^ 80) := by
  rw [encodeMessage, twoByteWord_eq_ofNat, ofNat_or_place m.dataLength (by omega) (by decide),
    ofNat_or_place m.data[0] (by omega) (by decide), ofNat_or_place m.data[1] (by omega) (by decide),
    ofNat_or_place m.data[2] (by omega) (by decide), ofNat_or_place m.data[3] (by omega) (by decide),
    ofNat_or_place m.data[4] (by omega) (by decide), ofNat_or_place m.data[5] (by omega) (by decide),
    ofNat_or_place m.data[6] (by omega) (by decide), ofNat_or_place m.data[7] (by omega) (by decide)]

end Sys2Proof

namespace Sys2Proof.Machine

/-! ### The writes of the message -/

section Message
variable (m : Message) (b : Bank)

/-- SEND's label after `j` micro-steps from `S1`; `none` where it has ended. -/
def messageLabel : Nat → Option SendLabel
  | 0 => some .s1
  | 1 => some .s2
  | 2 => some .s3
  | n + 3 => if n ≤ m.dataLength.toNat then some (afterData m n) else none

/-- The bank after `j` micro-steps from `S1`: the identifier, the length, the data by rising index, the request (R158). -/
def messageBank (j : Nat) : Bank :=
  { b with
    txidH := if 1 ≤ j then idHigh m.nodeID m.messageType else b.txidH
    txidL := if 2 ≤ j then idLow m.nodeID else b.txidL
    txdlc := if 3 ≤ j then m.dataLength else b.txdlc
    txd := dataWritten m (min (j - 3) m.dataLength.toNat) b.txd
    txreq := if m.dataLength.toNat + 4 ≤ j then 1#1 else b.txreq }

/-- The bank with the message whole and in the peripheral's hands. -/
def messageDone : Bank :=
  { b with
    txidH := idHigh m.nodeID m.messageType, txidL := idLow m.nodeID, txdlc := m.dataLength
    txd := dataWritten m m.dataLength.toNat b.txd, txreq := 1#1 }

theorem messageBank_zero : messageBank m b 0 = b := by simp [messageBank, dataWritten_zero]

variable {m b}

theorem messageBank_of_le {j : Nat} (hj : m.dataLength.toNat + 4 ≤ j) : messageBank m b j = messageDone m b := by
  have h1 : 1 ≤ j := by omega
  have h2 : 2 ≤ j := by omega
  have h3 : 3 ≤ j := by omega
  have hmin : min (j - 3) m.dataLength.toNat = m.dataLength.toNat := by omega
  simp only [messageBank, messageDone, h1, h2, h3, hj, hmin, if_true]

theorem handedOver_messageDone : handedOver (messageDone m b) =
    some (idHigh m.nodeID m.messageType, idLow m.nodeID, m.data.toList.take m.dataLength.toNat) := by
  simp [handedOver, messageDone, take_dataWritten]

theorem messageLabel_eq_none_iff (j : Nat) : messageLabel m j = none ↔ m.dataLength.toNat + 4 ≤ j := by
  match j with
  | 0 | 1 | 2 => simp [messageLabel]
  | n + 3 => simp [messageLabel]

/-- The writes of the message begin after the wait. -/
theorem messageLabel_ne_wait {j : Nat} {l : AwaitLabel} : messageLabel m j ≠ some (.wait l) := by
  match j with
  | 0 | 1 | 2 => nofun
  | n + 3 =>
    unfold messageLabel afterData
    grind

/-- The micro-step at a label of the message's writes. -/
theorem microMessage_messageBank {j : Nat} {l : SendLabel} (hl : messageLabel m j = some l) (hlen : m.dataLength.toNat ≤ 8)
    (s : State) : microMessage m l (s.withBank (messageBank m b j)) =
      (s.withBank (messageBank m b (j + 1)), messageLabel m (j + 1)) := by
  match j with
  | 0 => cases hl; simp [microMessage, messageLabel, messageBank, headerToBytes_eq, State.write, State.withBank, regWrite]
  | 1 => cases hl; simp [microMessage, messageLabel, messageBank, headerToBytes_eq, State.write, State.withBank, regWrite]
  | 2 => cases hl; simp [microMessage, messageLabel, messageBank, State.write, State.withBank, regWrite]
  | n + 3 =>
    have hn : n ≤ m.dataLength.toNat := by
      by_contra h
      simp [messageLabel, h] at hl
    obtain rfl : afterData m n = l := by simpa [messageLabel, hn] using hl
    rcases Nat.lt_or_eq_of_le hn with hlt | rfl
    · have hn8 : n < 8 := by omega
      have hlabel : afterData m n = .s4 ⟨n, hn8⟩ := by simp [afterData, hn8, hlt]
      have hnext : n + 1 ≤ m.dataLength.toNat := hlt
      simp [hlabel, microMessage, messageLabel, messageBank, State.write, State.withBank, regWrite, hn, hnext,
        dataWritten_succ m hn8, Nat.not_le.2 hlt]
    · have hlabel : afterData m m.dataLength.toNat = .s5 := by simp [afterData]
      simp [hlabel, microMessage, messageLabel, messageBank, State.write, State.withBank, regWrite]

end Message

/-! ### From `S1` to the end -/

/-- A run goes on as it began while no poll fails. -/
theorem runUndisturbed_add {j : Nat} {s : State} (h : ∀ i < j, pollFails (microSteps i s) = false) (n : Nat) :
    runUndisturbed (j + n) s = runUndisturbed n (microSteps j s) := by
  induction j generalizing s with
  | zero => rw [Nat.zero_add]; rfl
  | succ j ih =>
    have hlater : ∀ i < j, pollFails (microSteps i (microStep s)) = false := fun i hi => h (i + 1) (by omega)
    have hnow : pollFails s = false := h 0 (by omega)
    rw [Nat.succ_add, runUndisturbed_succ hnow, ih hlater]
    rfl

/-- Where SEQ is left by an undisturbed turn that has sent the message: at IDLE, or past the second wait's first read. -/
def Sender.seqRest (x : Sender) (m : Message) : Seq :=
  match x with
  | send => .idle
  | sendsync => .sendsync m (.wait .a1)

section Run
variable {x : Sender} {m : Message} {s : State}

/-- SEND, or SENDSYNC, `j` micro-steps after `S1`. -/
def messageAfter (x : Sender) (m : Message) (s : State) (j : Nat) : State :=
  (s.withBank (messageBank m s.bank j)).goto (x.seqNext m (messageLabel m j))

theorem messageAfter_zero (h : s.seq = x.seqAt m .s1) : messageAfter x m s 0 = s := by
  rw [messageAfter, messageBank_zero]
  exact State.goto_self h

theorem messageAfter_end : messageAfter x m s (m.dataLength.toNat + 4) =
    (s.withBank (messageDone m s.bank)).goto (x.seqAfter m) := by
  rw [messageAfter, messageBank_of_le (le_refl _), (messageLabel_eq_none_iff _).2 (le_refl _)]
  rfl

/-- Before the end SEQ is at a label of the message's writes. -/
theorem messageAfter_label {j : Nat} (hj : j < m.dataLength.toNat + 4) :
    ∃ l, messageLabel m j = some l ∧ (messageAfter x m s j).seq = x.seqAt m l := by
  have hsome : messageLabel m j ≠ none := fun h => absurd ((messageLabel_eq_none_iff j).1 h) (by omega)
  obtain ⟨l, hl⟩ := Option.ne_none_iff_exists'.1 hsome
  exact ⟨l, hl, by rw [messageAfter, hl]; rfl⟩

theorem microStep_messageAfter {j : Nat} (hlen : m.dataLength.toNat ≤ 8) (hj : j < m.dataLength.toNat + 4) :
    microStep (messageAfter x m s j) = messageAfter x m s (j + 1) := by
  obtain ⟨l, hl, hseq⟩ := messageAfter_label (x := x) (s := s) hj
  have hmicro : microMessage m l (messageAfter x m s j) = ((s.withBank (messageBank m s.bank (j + 1))).goto
      (x.seqNext m (messageLabel m j)), messageLabel m (j + 1)) :=
    microMessage_messageBank (b := s.bank) hl hlen (s.goto (x.seqNext m (messageLabel m j)))
  rw [microStep_sender hseq, hmicro]
  rfl

theorem pollFails_messageAfter {j : Nat} (hj : j < m.dataLength.toNat + 4) : pollFails (messageAfter x m s j) = false := by
  obtain ⟨l, hl, hseq⟩ := messageAfter_label (x := x) (s := s) hj
  have hnowait : l ≠ .wait .a0 := fun e => messageLabel_ne_wait (e ▸ hl)
  rw [pollFails_sender hseq, beq_false_of_ne hnowait, Bool.false_and]

theorem microSteps_messageAfter {j : Nat} (hlen : m.dataLength.toNat ≤ 8) (hj : j ≤ m.dataLength.toNat + 4) :
    microSteps j (messageAfter x m s 0) = messageAfter x m s j := by
  induction j with
  | zero => rfl
  | succ j ih => rw [microSteps_add, ih (by omega), microSteps, microSteps, microStep_messageAfter hlen (by omega)]

/-- SEND in a turn of any number of micro-steps from `S1`: once it has ended it does nothing. -/
theorem microSteps_send_message (h : s.seq = Sender.send.seqAt m .s1) (hlen : m.dataLength.toNat ≤ 8) (j : Nat) :
    microSteps j s = messageAfter .send m s j := by
  have hrun {i : Nat} (hi : i ≤ m.dataLength.toNat + 4) := microSteps_messageAfter (x := .send) (s := s) hlen hi
  simp only [messageAfter_zero h] at hrun
  rcases Nat.le_total j (m.dataLength.toNat + 4) with hj | hj
  · exact hrun hj
  · obtain ⟨r, rfl⟩ := Nat.exists_eq_add_of_le hj
    rw [microSteps_add, hrun (le_refl _), messageAfter_end, microSteps_idle r rfl, messageAfter, messageBank_of_le hj,
      (messageLabel_eq_none_iff _).2 hj]
    rfl

/-- After the message SEND has ended and SENDSYNC's first poll fails. -/
theorem runUndisturbed_seqAfter (h : s.seq = x.seqAfter m) (htx : s.bank.txreq = 1#1) (n : Nat) :
    runUndisturbed (n + 1) s = s.goto (x.seqRest m) := by
  cases x with
  | send => rw [runUndisturbed_idle _ h]; exact (State.goto_self h).symm
  | sendsync =>
    have hwait : s.seq = (WaitPlace.second m).seqAt .a0 := h
    have hpoll : pollFails s = true := by rw [pollFails_wait hwait, (txreqSet_iff s).2 htx]; rfl
    rw [runUndisturbed, if_pos hpoll, microStep_a0_pending hwait htx]
    rfl

/-- An undisturbed turn that is at `S1` early enough sends the message whole. -/
theorem runUndisturbed_message (h : s.seq = x.seqAt m .s1) (hlen : m.dataLength.toNat ≤ 8) {n : Nat}
    (hn : m.dataLength.toNat + 5 ≤ n) :
    runUndisturbed n s = (s.withBank (messageDone m s.bank)).goto (x.seqRest m) := by
  obtain ⟨r, rfl⟩ := Nat.exists_eq_add_of_le hn
  have hsteps {j : Nat} (hj : j ≤ m.dataLength.toNat + 4) : microSteps j s = messageAfter x m s j := by
    rw [← microSteps_messageAfter hlen hj, messageAfter_zero h]
  have hpolls : ∀ j < m.dataLength.toNat + 4, pollFails (microSteps j s) = false := fun j hj => by
    rw [hsteps (Nat.le_of_lt hj), pollFails_messageAfter hj]
  have hsplit : m.dataLength.toNat + 5 + r = m.dataLength.toNat + 4 + (r + 1) := by omega
  rw [hsplit, runUndisturbed_add hpolls, hsteps (le_refl _), messageAfter_end,
    runUndisturbed_seqAfter (State.goto_seq _ _) rfl]
  rfl

/-- With a command in progress, no other agent's turn and no word the port takes, a step is the undisturbed turn of the block. -/
theorem step_busy_undisturbed (ha : Undisturbed s) (hport : PortWaits s) (hbusy : s.seq ≠ .idle) :
    step s = .next (runUndisturbed 16 s) := by
  have hnext : BlockTurnNext s :=
    ⟨fun _ _ e => List.cons_ne_nil _ _ (e.symm.trans ha), fetchWord_eq_none.2 (.inr ⟨hbusy, hport⟩)⟩
  rw [step_of_blockTurnNext hnext, blockTurn, ha]
  rfl

/-- An undisturbed step out of the first wait: the wait ends, and the message is sent. -/
theorem step_firstWait {l : AwaitLabel} (h : s.seq = x.seqAt m (.wait l)) (ha : Undisturbed s) (hport : PortWaits s)
    (htx : TxIdle s) (hlen : m.dataLength.toNat ≤ 8) :
    step s = .next { s with
      seq := x.seqRest m
      bank := { messageDone m s.bank with abortReq := abortAfterWait l s.bank } } := by
  have hbusy : s.seq ≠ .idle := by rw [h]; cases x <;> nofun
  obtain ⟨r, hr, hwait⟩ := runUndisturbed_wait_clear (w := .first x m) h htx 13
  have hs1 : (waitOver (.first x m) l s).seq = x.seqAt m .s1 := rfl
  rw [step_busy_undisturbed ha hport hbusy, hwait, runUndisturbed_message hs1 hlen (by omega)]
  rfl

/-- An undisturbed step out of the second wait ends SENDSYNC (R168). -/
theorem step_secondWait {l : AwaitLabel} (h : s.seq = .sendsync m (.wait l)) (ha : Undisturbed s) (hport : PortWaits s)
    (htx : TxIdle s) :
    step s = .next { s with seq := .idle, bank := { s.bank with abortReq := abortAfterWait l s.bank } } := by
  have hbusy : s.seq ≠ .idle := by rw [h]; nofun
  obtain ⟨r, -, hwait⟩ := runUndisturbed_wait_clear (w := .second m) h htx 13
  rw [step_busy_undisturbed ha hport hbusy, hwait, runUndisturbed_idle r rfl]
  rfl

/-! ### From acceptance -/

/-- A length of at most 8 is accepted (R159), and the run begins at `S0`. -/
theorem exec_sender_accepted (x : Sender) (hi : SeqIdle s) (hlen : m.dataLength.toNat ≤ 8) :
    exec (x.instr m) s = .next (blockTurn (s.goto (x.seqAt m .s0))) := by
  have hmeaning : messageRefusal m = none := if_pos ((length_le_iff m).2 hlen)
  cases x <;> exact acceptCommand_accepted hi hmeaning

theorem exec_sender_refused (x : Sender) (hi : SeqIdle s) (hlen : 8 < m.dataLength.toNat) :
    exec (x.instr m) s = .refused .sendLengthOver8 := by
  have hmeaning : messageRefusal m = some .sendLengthOver8 := if_neg (mt (length_le_iff m).1 (Nat.not_le.2 hlen))
  cases x <;> exact acceptCommand_refused hi hmeaning

/-- SEND after its first micro-step: the status is written, and the first read is next (R160). -/
def sendStarted (x : Sender) (m : Message) (s : State) : State := (s.setCode .sending).goto (x.seqAt m (.wait .a0))

theorem microStep_s0 (h : s.seq = x.seqAt m .s0) : microStep s = sendStarted x m s := microStep_sender h

/-- An undisturbed turn from acceptance begins with the status. -/
theorem exec_sender_undisturbed (hi : SeqIdle s) (ha : Undisturbed s) (hlen : m.dataLength.toNat ≤ 8) :
    exec (x.instr m) s = .next (runUndisturbed 15 (sendStarted x m s)) := by
  have hpoll : pollFails (s.goto (x.seqAt m .s0)) = false := pollFails_sender (State.goto_seq s _)
  rw [exec_sender_accepted x hi hlen, blockTurn, State.goto_agenda, ha]
  simp only [undisturbedBound, runUndisturbed_succ hpoll, microStep_s0 (State.goto_seq s _)]
  rfl

/-- With no message pending SENDSYNC sends the message and is in its second wait (R168). -/
theorem exec_sendsync_clear (hi : SeqIdle s) (ha : Undisturbed s) (htx : TxIdle s) (hlen : m.dataLength.toNat ≤ 8) :
    exec (.sendsync m) s = .next { s with
      seq := .sendsync m (.wait .a1), tsCode := .sending, bank := messageDone m s.bank } := by
  have hclear : TxIdle (sendStarted .sendsync m s) := htx
  have hs1 : ((sendStarted .sendsync m s).goto (Sender.sendsync.seqAt m .s1)).seq = Sender.sendsync.seqAt m .s1 := rfl
  have hturn := exec_sender_undisturbed (x := .sendsync) hi ha hlen
  rw [runUndisturbed_a0_clear (w := .first .sendsync m) rfl hclear] at hturn
  refine hturn.trans ?_
  exact congrArg _ (runUndisturbed_message hs1 hlen (by omega))

/-- With a message pending its first read fails, and nothing but the status is written. -/
theorem exec_sender_pending (hi : SeqIdle s) (ha : Undisturbed s) (htx : s.bank.txreq = 1#1) (hlen : m.dataLength.toNat ≤ 8) :
    exec (x.instr m) s = .next { s with seq := x.seqAt m (.wait .a1), tsCode := .sending } := by
  have hwait : (sendStarted x m s).seq = (WaitPlace.first x m).seqAt .a0 := rfl
  have hpending : (sendStarted x m s).bank.txreq = 1#1 := htx
  have hpoll : pollFails (sendStarted x m s) = true := by rw [pollFails_wait hwait, (txreqSet_iff _).2 hpending]; rfl
  rw [exec_sender_undisturbed hi ha hlen, runUndisturbed, if_pos hpoll, microStep_a0_pending hwait hpending]
  rfl

/-- Where SEND is after `k` of its micro-steps with no message pending. -/
def sendSeq (m : Message) : Nat → Seq
  | 0 => .send m .s0
  | 1 => .send m (.wait .a0)
  | j + 2 => Sender.send.seqNext m (messageLabel m j)

theorem sendSeq_eq_idle_iff (k : Nat) : sendSeq m k = .idle ↔ 6 + m.dataLength.toNat ≤ k := by
  match k with
  | 0 | 1 => exact iff_of_false nofun (by omega)
  | j + 2 =>
    have hend : 6 + m.dataLength.toNat ≤ j + 2 ↔ m.dataLength.toNat + 4 ≤ j := by omega
    rw [hend, ← messageLabel_eq_none_iff, sendSeq]
    cases messageLabel m j <;> simp [Sender.seqNext, Sender.seqAt, Sender.seqAfter]

/-- SEND after `k` micro-steps with no message pending: the status, one read of `TXREQ`, then the message (R158). -/
theorem microSteps_send_eq (htx : TxIdle s) (hlen : m.dataLength.toNat ≤ 8) (k : Nat) :
    microSteps k (s.goto (.send m .s0)) = { s with
      seq := sendSeq m k, tsCode := if 1 ≤ k then .sending else s.tsCode, bank := messageBank m s.bank (k - 2) } := by
  have hstart : microStep (s.goto (.send m .s0)) = sendStarted .send m s := microStep_s0 (x := .send) rfl
  have hclear : TxIdle (sendStarted .send m s) := htx
  match k with
  | 0 => rw [Nat.zero_sub, messageBank_zero]; rfl
  | 1 => rw [microSteps, hstart, Nat.sub_eq_zero_of_le (by decide), messageBank_zero]; rfl
  | j + 2 =>
    rw [microSteps, microSteps, hstart, microStep_a0_clear (w := .first .send m) rfl hclear, microSteps_send_message rfl hlen]
    simp [messageAfter, sendStarted, sendSeq, State.goto, State.withBank, State.setCode]

end Run

/-! ### The obligations -/

/-- Settles O40: undisturbed by the run of SEND in closed form, in a turn of `k` micro-steps by the closed form after each. -/
theorem sendHandsTheMessageOver : Obligations.SendHandsTheMessageOver := by
  unfold Obligations.SendHandsTheMessageOver
  intro m s hi htx hlen
  refine ⟨(decode_eq_ok_iff _ _).2 (encodeMessage_eq_ofNat m 0xA#4), fun ha => ?_, fun k rest ha => ?_⟩
  · refine ⟨sendDone m s, exec_send_undisturbed hi ha htx hlen, ?_, fun i => dataWritten_getElem m _ _ i.isLt⟩
    simp only [sendDone, sendAtData, hi]
  · have hturn : blockTurn (s.goto (.send m .s0)) = (microSteps k (s.goto (.send m .s0))).withAgenda rest := blockTurn_granted ha
    rw [microSteps_send_eq htx hlen] at hturn
    refine ⟨_, (exec_send_accepted hi hlen).trans (congrArg _ hturn), ?_, fun i => ?_, sendSeq_eq_idle_iff k⟩
    · have h1 : 1 ≤ k - 2 ↔ 3 ≤ k := by omega
      have h2 : 2 ≤ k - 2 ↔ 4 ≤ k := by omega
      have h3 : 3 ≤ k - 2 ↔ 5 ≤ k := by omega
      have h4 : m.dataLength.toNat + 4 ≤ k - 2 ↔ 6 + m.dataLength.toNat ≤ k := by omega
      simp only [State.withAgenda, messageBank, h1, h2, h3, h4, show s.bank.txreq = 0#1 from htx]
    · have hwritten : i.val < min (k - 2 - 3) m.dataLength.toNat ↔ i.val < m.dataLength.toNat ∧ 6 + i.val ≤ k := by omega
      simp only [← hwritten]
      exact dataWritten_getElem m _ _ i.isLt

/-- Settles O41. -/
theorem sendWaitsForThePreviousMessage : Obligations.SendWaitsForThePreviousMessage := by
  unfold Obligations.SendWaitsForThePreviousMessage
  exact fun m s hi ha htx hlen =>
    ⟨exec_sender_pending (x := .send) hi ha htx hlen, exec_sender_pending (x := .sendsync) hi ha htx hlen⟩

/-- Settles O43: the refusal is decided by the length alone. -/
theorem sendIsRefusedExactlyAboveEightBytes : Obligations.SendIsRefusedExactlyAboveEightBytes := by
  unfold Obligations.SendIsRefusedExactlyAboveEightBytes
  exact fun m s hi =>
    ⟨fun hlen => ⟨exec_sender_refused .send hi hlen, exec_sender_refused .sendsync hi hlen⟩,
      fun hlen => ⟨⟨_, exec_sender_accepted .send hi hlen⟩, _, exec_sender_accepted .sendsync hi hlen⟩⟩

/-- Settles O42: the turn out of the first wait, in SEND and in SENDSYNC. -/
theorem sendAfterItsWaitHandsTheMessageOver : Obligations.SendAfterItsWaitHandsTheMessageOver := by
  unfold Obligations.SendAfterItsWaitHandsTheMessageOver
  intro m l s ha htx hport hlen abort endsAt
  have hends (x : Sender) (hq : s.seq = x.seqAt m (.wait l)) : endsAt (x.seqRest m) :=
    ⟨_, step_firstWait hq ha hport htx hlen, rfl, fun i => dataWritten_getElem m _ _ i.isLt, handedOver_messageDone⟩
  exact ⟨hends .send, hends .sendsync⟩

/-- Settles O44: the undisturbed run up to the second wait, and the turn out of it. -/
theorem sendsyncCompletesWhenThePeripheralClears : Obligations.SendsyncCompletesWhenThePeripheralClears := by
  unfold Obligations.SendsyncCompletesWhenThePeripheralClears
  intro m s hi ha htx hport hlen
  refine ⟨(decode_eq_ok_iff _ _).2 (encodeMessage_eq_ofNat m 0xB#4), _, exec_sendsync_clear hi ha htx hlen, rfl,
    fun i => dataWritten_getElem m _ _ i.isLt, ?_, ?_⟩
  · rw [step_agentTurn, ← ha]
    rfl
  · refine (step_secondWait (m := m) (l := .a1) ?_ ?_ ?_ ?_).trans ?_
    · rfl
    · exact ha
    · exact hport
    · rfl
    · simp [abortAfterWait, messageDone]

/-- Settles O46: SEND goes on from its first read, past which it does not write the status. -/
theorem statusWrittenDuringSendStands : Obligations.StatusWrittenDuringSendStands := by
  unfold Obligations.StatusWrittenDuringSendStands
  intro m c s hi htx hport hlen ha
  have hturn : blockTurn (s.goto (.send m .s0)) = (sendStarted .send m s).withAgenda [.agent (.hostWritesCode c)] :=
    blockTurn_granted (s := s.goto (.send m .s0)) ha
  have hcode : step ((sendStarted .send m s).withAgenda [.agent (.hostWritesCode c)]) =
      .next (((sendStarted .send m s).withAgenda []).setCode c) := rfl
  have hrest := step_firstWait (x := .send) (m := m) (l := .a0) (s := ((sendStarted .send m s).withAgenda []).setCode c)
    rfl rfl hport htx hlen
  exact ⟨_, _, (exec_send_accepted hi hlen).trans (congrArg _ hturn), rfl, runsTo_snoc (runsTo_snoc rfl hcode) hrest,
    rfl, rfl, rfl⟩

end Sys2Proof.Machine
end

section
/-! SUPPORT. The frame of SEND and SENDSYNC (R158, R165, R168): the fields they touch, and the data registers they leave. -/

namespace Sys2Proof.Machine

/-- SEND or SENDSYNC in progress is at a label of SEND, or in SENDSYNC's second wait. -/
theorem transmit_place {x : Sender} {m : Message} {s : State} (h : commandOf s.seq = some (x.instr m)) :
    (∃ l, s.seq = x.seqAt m l) ∨ ∃ l, s.seq = (WaitPlace.second m).seqAt l := by
  cases e : s.seq with
  | send m' l =>
    rw [e] at h
    cases x <;> cases h
    exact .inl ⟨l, rfl⟩
  | sendsync m' l =>
    rw [e] at h
    cases x <;> cases h
    cases l with
    | send l => exact .inl ⟨l, rfl⟩
    | wait l => exact .inr ⟨l, rfl⟩
  | _ =>
    rw [e] at h
    cases x <;> cases h

/-! ### The fields touched -/

/-- `s` with SEQ, the agenda, `TS.code`, the transmit buffer, `TXREQ` and `ABORT_REQ` of `t`. -/
def State.withTransmitFieldsOf (s t : State) : State :=
  { s with
    seq := t.seq, agenda := t.agenda, tsCode := t.tsCode
    bank := { s.bank with
      txidH := t.bank.txidH, txidL := t.bank.txidL, txdlc := t.bank.txdlc, txd := t.bank.txd, txreq := t.bank.txreq
      abortReq := t.bank.abortReq } }

theorem microStep_transmit_frame {x : Sender} {m : Message} {s : State} (h : commandOf s.seq = some (x.instr m)) :
    microStep s = s.withTransmitFieldsOf (microStep s) := by
  rcases transmit_place h with ⟨l, hl⟩ | ⟨l, hl⟩
  · rw [microStep_sender hl, microMessage_frame]
    rfl
  · rw [microStep_wait hl, microWait_frame]
    rfl

/-- Every piece of a run of SEND or SENDSYNC touches these fields alone. -/
theorem works_transmit_frame {x : Sender} {m : Message} {s t : State} (h : Works (x.instr m) s t) :
    t = s.withTransmitFieldsOf t := by
  have hstateful : (x.instr m).isPure = false := by cases x <;> rfl
  apply works_induct (h := h) (hstateful := hstateful)
  case start => rfl
  case free => exact fun u q rest hu => congrArg (fun v : State => { v with seq := q, agenda := rest }) hu
  case next => exact fun u hq hu => (microStep_transmit_frame hq).trans (congrArg (·.withTransmitFieldsOf (microStep u)) hu)

/-! ### The data registers left alone -/

section Data
variable {x : Sender} {m : Message} {s : State} {j : Fin 8} (hj : m.dataLength.toNat ≤ j.val)
include hj

/-- A data step writes a register below the length (R165). -/
theorem microMessage_txd {l : SendLabel} (hok : sendLabelOk s m l = true) :
    (microMessage m l s).1.bank.txd[j] = s.bank.txd[j] := by
  cases l with
  | s4 i =>
    simp only [sendLabelOk, Bool.and_eq_true, decide_eq_true_eq] at hok
    obtain ⟨-, hi⟩ := hok
    exact Vector.getElem_set_ne i.isLt j.isLt (by omega)
  | wait l => rw [microMessage_wait, microWait_frame]
  | s0 | s1 | s2 | s3 | s5 => rfl

theorem microStep_txd (h : commandOf s.seq = some (x.instr m)) (hok : seqOk s = true) :
    (microStep s).bank.txd[j] = s.bank.txd[j] := by
  rcases transmit_place h with ⟨l, hl⟩ | ⟨l, hl⟩
  · rw [microStep_sender hl]
    exact microMessage_txd hj (sendLabelOk_of_seqOk hl hok)
  · rw [microStep_wait hl, microWait_frame]
    rfl

theorem microSteps_txd (k : Nat) (h : commandOf s.seq = some (x.instr m)) (hok : seqOk s = true) :
    (microSteps k s).bank.txd[j] = s.bank.txd[j] := by
  have hrun := microSteps_induct_seqOk
    (P := fun u => u.bank.txd[j] = s.bank.txd[j] ∧ (u.seq = .idle ∨ commandOf u.seq = some (x.instr m)))
    (fun u hu ⟨hsame, hq⟩ => by
      rcases hq with hi | hq
      · rw [microStep_idle hi]
        exact ⟨hsame, .inl hi⟩
      · exact ⟨(microStep_txd hj hq hu).trans hsame, hq ▸ microStep_command u⟩)
    k hok ⟨rfl, .inr h⟩
  exact hrun.2.1

theorem works_transmit_txd {t : State} (h : Works (x.instr m) s t) (hok : seqOk s = true) : t.bank.txd[j] = s.bank.txd[j] := by
  rcases h with h | ⟨hq, rfl⟩
  · obtain ⟨k, u, rfl, hu, hbank, rfl | hq⟩ := exec_eq_microSteps h hok
    · rw [microSteps, hbank]
    · rw [← hbank]
      exact microSteps_txd hj k hq hu
  · obtain ⟨k, rest, e⟩ := blockTurn_eq_microSteps s
    rw [e]
    exact microSteps_txd (s := { s with agenda := rest }) hj k hq hok

end Data

/-! ### The obligation -/

/-- Settles O60: the frame of the micro-steps, and the data steps the invariant allows. -/
theorem frameOfSendAndSendsync : Obligations.FrameOfSendAndSendsync := by
  unfold Obligations.FrameOfSendAndSendsync
  intro m s t i hi h
  have hframe (x : Sender) (h : Works (x.instr m) s t) :
      t = s.withTransmitFieldsOf t ∧ (seqOk s = true → ∀ j : Fin 8, m.dataLength.toNat ≤ j.val → t.bank.txd[j] = s.bank.txd[j]) :=
    ⟨works_transmit_frame h, fun hok j hj => works_transmit_txd hj h hok⟩
  rcases hi with rfl | rfl
  · exact hframe .send h
  · exact hframe .sendsync h

end Sys2Proof.Machine
end

section
/-! SUPPORT. The host beside the block (60_exceptions.md): what a busy block does with the words on its port (R60, R191), the host's own
steps (R186), and its direct writes (R193), which build any register bank one register or pin direction at a time. -/

namespace Sys2Proof.Machine

/-! ### The port of a busy block -/

theorem microSteps_port (k : Nat) (s : State) : (microSteps k s).port = s.port := by
  apply microSteps_induct (R := fun s t => t.port = s.port)
  case base => exact fun _ => rfl
  case next =>
    intro s t h
    obtain ⟨-, -, -, hport, -⟩ := microStep_frame t
    exact hport.trans h

/-- The block's turn takes no word from the port. -/
theorem blockTurn_port (s : State) : (blockTurn s).port = s.port := by
  obtain ⟨k, rest, e⟩ := blockTurn_eq_microSteps s
  rw [e, microSteps_port]

/-- A busy block leaves a word that is no pure operation's on the port (R191). -/
theorem step_busy_port {s t : State} (hbusy : s.seq ≠ .idle) (hport : PortWaits s) (h : step s = .next t) : t.port = s.port := by
  rcases step_cases h with ⟨a, rest, -, rfl⟩ | ⟨-, ⟨-, rfl⟩ | ⟨w, rest, i, hp, hd, hready, -⟩⟩
  · obtain ⟨-, -, -, hframe, -⟩ := perform_frame { s with agenda := rest } a
    exact hframe
  · exact blockTurn_port s
  · have hpure : i.isPure = true := hready.resolve_left hbusy
    rw [hport w rest i hp hd] at hpure
    cases hpure

/-! ### The direct writes a turn of the run makes -/

theorem trunc1_eq_one_iff (v : Byte) : trunc1 v = 1#1 ↔ v.toNat % 2 = 1 := by
  simp [trunc1, ← BitVec.toNat_inj]

theorem trunc1_eq_zero_iff (v : Byte) : trunc1 v = 0#1 ↔ v.toNat % 2 = 0 := by
  simp [trunc1, ← BitVec.toNat_inj]

/-- The host's turns write every value to every register, but no 0 to a bank's enable (R24) and no 1 to `TXREQ` (R161). -/
theorem hostMayWrite_iff (x : Reg) (v : Byte) : hostMayWrite x v = true ↔
    (∀ n, x = .filtEn n → v.toNat % 2 = 1) ∧ (x = .txreq → v.toNat % 2 = 0) := by
  cases x <;> simp [hostMayWrite, trunc1_eq_one_iff, trunc1_eq_zero_iff]

theorem perform_hostWritesRegister {s : State} (hi : SeqIdle s) {x : Reg} {v : Byte} (h : hostMayWrite x v = true) :
    perform (.hostWritesRegister x v) s = s.write x v := by
  simp [perform, State.isIdle, hi, h]

theorem perform_hostWritesRegister_of_not {s : State} {x : Reg} {v : Byte} (h : ¬ hostMayWrite x v = true) :
    perform (.hostWritesRegister x v) s = s := by
  simp [perform, h]

/-- An evaluation of a stateful operation does nothing (R186). -/
theorem perform_hostEvaluates_stateful {i : Instr} (h : i.isPure = false) (s : State) : perform (.hostEvaluates i) s = s := by
  cases i with
  | hdr2b | b2hdr | penc | pdecop => cases h
  | _ => rfl

/-! ### The direct writes between two steps build any bank -/

/-- Every register and field that is written by number. -/
def allRegs : List Reg :=
  [.txidH, .txidL, .txdlc, .txreq, .txerr, .abortReq, .filtH .zero, .filtH .one, .filtL .zero, .filtL .one, .filtEn .zero,
    .filtEn .one, .maskH, .maskL, .rxie0, .modeReq, .modeStat, .brp, .timingA, .timingB, .driveEn] ++
    (List.finRange 8).map .txd

theorem mem_allRegs (r : Reg) : r ∈ allRegs := by
  cases r with
  | filtH n | filtL n | filtEn n => cases n <;> simp [allRegs]
  | _ => simp [allRegs]

theorem regRead_lt (b : Bank) (r : Reg) : (regRead b r).toNat < 2 ^ regWidth r := by
  cases r <;> simp [regRead, regWidth] <;> omega

/-- A register takes over whole what the same register of another bank holds. -/
theorem regRead_regWrite_regRead (b c : Bank) (r : Reg) : regRead (regWrite b r (regRead c r)) r = regRead c r := by
  apply BitVec.eq_of_toNat_eq
  rw [regRead_regWrite_same, Nat.mod_eq_of_lt (regRead_lt c r)]

/-- Banks that read alike in every register and pin direction are one bank. -/
theorem bank_ext {b c : Bank} (hregs : ∀ r, regRead b r = regRead c r) (hpins : ∀ q, pins b q = pins c q) : b = c := by
  have hnarrow {w : Nat} (hw : w ≤ 8) {x y : BitVec w} (h : x.setWidth 8 = y.setWidth 8) : x = y := by
    rw [← setWidth_setWidth_byte x hw, h, setWidth_setWidth_byte y hw]
  have hfilt (n : BankNo) : filterBank b n = filterBank c n := by
    have hH := hregs (.filtH n)
    have hL := hregs (.filtL n)
    have hEn := hnarrow (by decide) (hregs (.filtEn n))
    simp only [regRead] at hH hL
    cases hb : filterBank b n; cases hc : filterBank c n
    simp_all
  have htxd := txd_eq_of_regRead fun i => hregs (.txd i)
  cases b; cases c
  simp only [Bank.mk.injEq]
  exact ⟨hregs .txidH, hregs .txidL, hnarrow (by decide) (hregs .txdlc), htxd, hnarrow (by decide) (hregs .txreq),
    hnarrow (by decide) (hregs .txerr), hnarrow (by decide) (hregs .abortReq), hfilt .zero, hfilt .one, hregs .maskH,
    hregs .maskL, hnarrow (by decide) (hregs .rxie0), hnarrow (by decide) (hregs .modeReq), hnarrow (by decide) (hregs .modeStat),
    hnarrow (by decide) (hregs .brp), hregs .timingA, hregs .timingB, hpins .primary, hpins .alternate,
    hnarrow (by decide) (hregs .driveEn)⟩

/-- The host writes to each of the registers `rs` what the bank `c` holds there. -/
def copyRegs (c : Bank) (rs : List Reg) : List DirectWrite := rs.map fun r => .register r (regRead c r)

/-- The host writes the pin directions of the bank `c`. -/
def copyPins (c : Bank) : List DirectWrite :=
  [.dirTx .primary (pins c .primary).tx, .dirRx .primary (pins c .primary).rx,
    .dirTx .alternate (pins c .alternate).tx, .dirRx .alternate (pins c .alternate).rx]

/-- Direct writes one after another. -/
def writeAll (ws : List DirectWrite) (s : State) : State := ws.foldl (fun u w => writeDirectly w u) s

theorem moves_writeAll {s t : State} (ws : List DirectWrite) (h : Moves s t) (hi : SeqIdle t) : Moves s (writeAll ws t) := by
  induction ws generalizing t with
  | nil => exact h
  | cons w ws ih =>
    have hidle : SeqIdle (writeDirectly w t) := by
      rw [writeDirectly_frame]
      exact hi
    exact ih (h.tail (.inr ⟨hi, w, rfl⟩)) hidle

theorem writeAll_cons (w : DirectWrite) (ws : List DirectWrite) (s : State) :
    writeAll (w :: ws) s = writeAll ws (writeDirectly w s) := rfl

theorem writeAll_append (ws vs : List DirectWrite) (s : State) : writeAll (ws ++ vs) s = writeAll vs (writeAll ws s) :=
  List.foldl_append

/-- Copying registers changes the bank alone. -/
theorem writeAll_copyRegs (c : Bank) (rs : List Reg) (s : State) :
    writeAll (copyRegs c rs) s = s.withBank (rs.foldl (fun b r => regWrite b r (regRead c r)) s.bank) := by
  induction rs generalizing s with
  | nil => rfl
  | cons r rs ih => exact ih (s.write r (regRead c r))

theorem writeAll_copyPins (c : Bank) (s : State) :
    writeAll (copyPins c) s = s.withBank (setPins (setPins s.bank .primary (pins c .primary)) .alternate (pins c .alternate)) := rfl

/-- After the copy a register reads as in `c` if it was copied or did so before. -/
theorem regRead_copied (c : Bank) {r : Reg} (rs : List Reg) {b : Bank} (h : r ∈ rs ∨ regRead b r = regRead c r) :
    regRead (rs.foldl (fun b r => regWrite b r (regRead c r)) b) r = regRead c r := by
  induction rs generalizing b with
  | nil => exact h.resolve_left List.not_mem_nil
  | cons q rs ih =>
    apply ih
    by_cases hq : r = q
    · subst hq
      exact .inr (regRead_regWrite_regRead b c r)
    · rw [regRead_regWrite_other b _ hq]
      exact h.imp_left fun hmem => (List.mem_cons.1 hmem).resolve_left hq

/-- The host makes the bank `c`, register by register and pin direction by pin direction. -/
def copyBank (c : Bank) : List DirectWrite := copyRegs c allRegs ++ copyPins c

theorem writeAll_copyBank (c : Bank) (s : State) : writeAll (copyBank c) s = s.withBank c := by
  rw [copyBank, writeAll_append, writeAll_copyRegs, writeAll_copyPins]
  have hregs (r : Reg) := regRead_copied c allRegs (b := s.bank) (.inl (mem_allRegs r))
  generalize allRegs.foldl (fun b r => regWrite b r (regRead c r)) s.bank = copied at hregs ⊢
  have hbank : setPins (setPins copied .primary (pins c .primary)) .alternate (pins c .alternate) = c := by
    apply bank_ext
    · intro r
      rw [regRead_setPins, regRead_setPins, hregs]
    · intro q
      cases q <;> rfl
  rw [State.withBank_bank, hbank]
  rfl

/-- Outside any command the host's direct writes lead to every block-owned state, with a timestamp of TS_WIDTH bits, and every bank
(R193). -/
theorem moves_of_idle {s t : State} (hi : SeqIdle s)
    (ht : t = { s with tsCode := t.tsCode, timestamp := t.timestamp, fsc := t.fsc, bank := t.bank })
    (hfits : t.timestamp < 2 ^ s.params.timestampWidth) : Moves s t := by
  have hrun := moves_writeAll (.code t.tsCode :: .timestamp t.timestamp :: .fsc t.fsc :: copyBank t.bank) (.refl s) hi
  have hstamp : t.timestamp % 2 ^ s.params.timestampWidth = t.timestamp := Nat.mod_eq_of_lt hfits
  simp only [writeAll_cons, writeAll_copyBank, writeDirectly, State.setCode, State.setTimestamp, State.setFsc, State.withBank,
    hstamp] at hrun
  rwa [← ht] at hrun

/-! ### The obligations -/

/-- Settles O54: each step of the host is one write, and its direct writes build any bank. -/
theorem hostTakesOnlyItsLiberties : Obligations.HostTakesOnlyItsLiberties := by
  unfold Obligations.HostTakesOnlyItsLiberties
  refine ⟨fun s rest c v i r d b x => ?_, fun s t => moves_of_idle⟩
  have hafter {a : Act} {t : State} (h : perform a { s with agenda := rest } = t) :
      step { s with agenda := .agent a :: rest } = .next t := (step_agentTurn s a rest).trans (congrArg _ h)
  refine ⟨hafter rfl, hafter rfl, fun res hexec hpure => hafter ?_, fun hstateful => hafter ?_, fun hi => ?_, fun hbusy => ?_⟩
  · obtain ⟨res', hres, -⟩ := exec_pure hpure { s with agenda := rest }
    exact perform_hostEvaluates (hres.trans (congrArg some ((exec_eq_next_iff hres _ res).1 hexec))) _
  · exact perform_hostEvaluates_stateful hstateful _
  · have hidle : ({ s with agenda := rest } : State).isIdle = true := (isIdle_iff _).2 hi
    refine ⟨hafter (if_pos hidle), hafter (if_pos hidle), fun hen htx => hafter ?_, ?_, ?_⟩
    · exact perform_hostWritesRegister (s := { s with agenda := rest }) hi ((hostMayWrite_iff x b).2 ⟨hen, htx⟩)
    · rintro ⟨n, rfl⟩ hb
      refine hafter (perform_hostWritesRegister_of_not fun h => ?_)
      have hone := ((hostMayWrite_iff _ b).1 h).1 n rfl
      omega
    · rintro rfl hb
      refine hafter (perform_hostWritesRegister_of_not fun h => ?_)
      have hzero := ((hostMayWrite_iff _ b).1 h).2 rfl
      omega
  · have hidle : ({ s with agenda := rest } : State).isIdle = false := by simpa [State.isIdle] using hbusy
    refine ⟨hafter ?_, hafter ?_, hafter ?_⟩ <;> simp [perform, hidle]

/-- Settles O55: the sequencer is not IDLE, so nothing is accepted or refused, and the port gives up a pure operation's word only. -/
theorem busyBlockAcceptsNoStatefulCommand : Obligations.BusyBlockAcceptsNoStatefulCommand := by
  unfold Obligations.BusyBlockAcceptsNoStatefulCommand
  refine ⟨fun i s hstateful hbusy => ?_, fun s t => step_busy_port, fun s w rest i _ hagenda hport hdecode hpure => ?_⟩
  · obtain ⟨first, refusal, -, e⟩ := exec_stateful hstateful s
    exact e.trans (if_neg (mt (isIdle_iff s).1 hbusy))
  · obtain ⟨r, -, hexec⟩ := exec_pure hpure { s with port := rest }
    exact ⟨r, (stepExecutesTheDecodedCommand s w rest i (.inr hpure) hagenda hport hdecode).trans hexec⟩

end Sys2Proof.Machine
end

section
/-! SUPPORT. A command in progress while the turns of the agenda and the words of the port are used up (R46, R60, R192): each of its steps
uses up one, until the block runs undisturbed. SETMODE then finishes if the peripheral reports the target (R127, R192). -/

namespace Sys2Proof.Machine

/-! ### The steps of a busy block use up the turns and the words -/

/-- The turns and the words that steps can still use up. -/
def turnsLeft (s : State) : Nat := s.agenda.length + s.port.length

/-- A busy block's step uses up a turn or a word, unless none is left that it can use: then it is the undisturbed turn of the block. -/
theorem step_busy_turnsLeft {s : State} (hbusy : s.seq ≠ .idle) :
    ∃ t, step s = .next t ∧ (turnsLeft t < turnsLeft s ∨ (Undisturbed s ∧ BlockTurnNext s)) := by
  have hanswers : ∃ t, step s = .next t := by
    rcases step_busy_cases hbusy with ⟨_, _, -, e⟩ | ⟨_, _, e⟩ | ⟨-, e⟩ <;> exact ⟨_, e⟩
  obtain ⟨t, ht⟩ := hanswers
  refine ⟨t, ht, ?_⟩
  rcases step_cases ht with ⟨a, rest, ha, rfl⟩ | ⟨hno, ⟨hfetch, rfl⟩ | ⟨w, rest, i, hp, -, hi, he⟩⟩
  · obtain ⟨-, -, -, hport, hagenda⟩ := perform_frame { s with agenda := rest } a
    exact .inl (by simp [turnsLeft, hport, hagenda, ha])
  · rcases ha : s.agenda with _ | ⟨a | k, rest⟩
    · exact .inr ⟨ha, hno, hfetch⟩
    · exact absurd ha (hno a rest)
    · refine .inl ?_
      rw [turnsLeft, blockTurn_port, blockTurn_granted ha]
      simp [turnsLeft, State.withAgenda, ha]
  · obtain ⟨r, -, e⟩ := exec_pure (hi.resolve_left hbusy) { s with port := rest }
    cases e.symm.trans he
    exact .inl (by simp [turnsLeft, hp])

/-- A step goes on with the command in progress, or ends it. -/
theorem step_busy_command {s t : State} (hbusy : s.seq ≠ .idle) (h : step s = .next t) :
    SeqIdle t ∨ commandOf t.seq = commandOf s.seq := by
  rcases step_busy_cases hbusy with ⟨a, rest, -, e⟩ | ⟨later, res, e⟩ | ⟨-, e⟩ <;> cases e.symm.trans h
  · obtain ⟨-, hseq, -⟩ := perform_frame { s with agenda := rest } a
    exact .inr (congrArg commandOf hseq)
  · exact .inr rfl
  · exact blockTurn_command s

/-- The command `i` is in progress and the block runs undisturbed: no turn of another agent is left, and no word the port takes. -/
structure Alone (i : Instr) (s : State) : Prop where
  command : commandOf s.seq = some i
  undisturbed : Undisturbed s
  next : BlockTurnNext s

/-- Within as many steps as the agenda has turns and the port words, a command in progress has ended or runs undisturbed; a property that
its steps keep holds there. -/
theorem runsTo_idle_or_alone {i : Instr} {P : State → Prop}
    (next : ∀ u v, commandOf u.seq = some i → P u → step u = .next v → P v ∨ SeqIdle v) {s : State}
    (hc : commandOf s.seq = some i) (start : P s) :
    ∃ k t, k ≤ turnsLeft s ∧ RunsTo k s t ∧ (SeqIdle t ∨ (P t ∧ Alone i t)) := by
  induction hn : turnsLeft s using Nat.strong_induction_on generalizing s with
  | _ n ih =>
    have hbusy := ne_idle_of_commandOf hc
    obtain ⟨u, hstep, hless | ⟨ha, hnext⟩⟩ := step_busy_turnsLeft hbusy
    · have hone : RunsTo 1 s u := runsTo_succ_iff.2 ⟨u, hstep, rfl⟩
      by_cases hi : SeqIdle u
      · exact ⟨1, u, by omega, hone, .inl hi⟩
      · have hcu : commandOf u.seq = some i := ((step_busy_command hbusy hstep).resolve_left hi).trans hc
        obtain ⟨k, t, hk, hrun, hend⟩ := ih _ (hn ▸ hless) hcu ((next s u hc start hstep).resolve_right hi) rfl
        exact ⟨k + 1, t, by omega, runsTo_succ_iff.2 ⟨u, hstep, hrun⟩, hend⟩
    · exact ⟨0, s, Nat.zero_le n, rfl, .inr ⟨start, hc, ha, hnext⟩⟩

/-- A command whose undisturbed turn ends it finishes within one step more. -/
theorem runsTo_idle_within {i : Instr} {P : State → Prop}
    (next : ∀ u v, commandOf u.seq = some i → P u → step u = .next v → P v ∨ SeqIdle v)
    (last : ∀ u, P u → Alone i u → SeqIdle (blockTurn u)) {s : State} (hc : commandOf s.seq = some i) (start : P s) :
    ∃ k t, k ≤ s.agenda.length + s.port.length + 1 ∧ RunsTo k s t ∧ SeqIdle t := by
  obtain ⟨k, t, hk, hrun, hi | ⟨hP, halone⟩⟩ := runsTo_idle_or_alone next hc start
  · exact ⟨k, t, Nat.le_succ_of_le hk, hrun, hi⟩
  · exact ⟨k + 1, blockTurn t, Nat.succ_le_succ hk, runsTo_snoc hrun (step_of_blockTurnNext halone.next), last t hP halone⟩

theorem runsTo_add {j k : Nat} {s t u : State} (h : RunsTo j s t) (h' : RunsTo k t u) : RunsTo (j + k) s u := by
  induction j generalizing s with
  | zero => cases h; rwa [Nat.zero_add]
  | succ j ih =>
    obtain ⟨v, hv, hrest⟩ := runsTo_succ_iff.1 h
    rw [Nat.succ_add]
    exact runsTo_succ_iff.2 ⟨v, hv, ih hrest⟩

/-! ### SETMODE and the reports on the agenda -/

/-- While a command is in progress a turn of another agent moves `MODE_STAT` as the agenda says (R28, R51). -/
theorem modeStatAfter_agent {s : State} (hbusy : s.seq ≠ .idle) (a : Act) (rest : List Turn) :
    modeStatAfter (.agent a :: rest) s.bank.modeStat = modeStatAfter rest (perform a s).bank.modeStat := by
  have hi : s.isIdle = false := by simp [State.isIdle, hbusy]
  cases a with
  | periphReportsMode m => simp [modeStatAfter, perform, regWrite]
  | hostSetsDirTx | hostSetsDirRx | hostWritesRegister => simp [modeStatAfter, perform, hi]
  | _ => rfl

theorem blockTurn_modeStat (s : State) : (blockTurn s).bank.modeStat = s.bank.modeStat := by
  obtain ⟨k, rest, e⟩ := blockTurn_eq_microSteps s
  rw [e, microSteps_modeStat]

/-- A step of a busy block keeps the mode the peripheral reports last. -/
theorem step_busy_settlesOn {m : BitVec 3} {s t : State} (hbusy : s.seq ≠ .idle) (hm : PeriphSettlesOn m s)
    (h : step s = .next t) : PeriphSettlesOn m t := by
  rcases step_cases h with ⟨a, rest, ha, rfl⟩ | ⟨hno, ⟨-, rfl⟩ | ⟨w, rest, i, -, -, hi, he⟩⟩
  · obtain ⟨-, -, -, -, hagenda⟩ := perform_frame { s with agenda := rest } a
    rw [PeriphSettlesOn, hagenda, ← modeStatAfter_agent (s := { s with agenda := rest }) hbusy a rest, ← ha]
    exact hm
  · rcases ha : s.agenda with _ | ⟨a | k, rest⟩
    · obtain ⟨k, -, e⟩ := runUndisturbed_eq undisturbedBound s
      have hturn : blockTurn s = microSteps k s := by simp only [blockTurn, ha, e]
      rw [PeriphSettlesOn, hturn, microSteps_agenda, microSteps_modeStat]
      exact hm
    · exact absurd ha (hno a rest)
    · have hrest : modeStatAfter rest s.bank.modeStat = m := by rw [← hm, ha]; rfl
      rw [PeriphSettlesOn, blockTurn_modeStat, blockTurn_granted ha]
      exact hrest
  · obtain ⟨r, -, e⟩ := exec_pure (hi.resolve_left hbusy) { s with port := rest }
    cases e.symm.trans he
    exact hm

/-! ### SETMODE undisturbed -/

section Undisturbed
variable {target : Byte} {s : State}

/-- A read that fails ends the undisturbed run (R124). -/
theorem AtModeRead.runUndisturbed_fails (h : AtModeRead target s) (hm : ¬ ModeIs (trunc3 target) s) (n : Nat) :
    runUndisturbed (n + 1) s = s.goto (.setmode target .s1) := by
  have hreports : modeReports target s = false := Bool.eq_false_iff.2 (mt (modeReports_iff target s).1 hm)
  have hpoll : pollFails s = true := by rw [h.pollFails_eq, hreports]; rfl
  rw [runUndisturbed, if_pos hpoll, h.microStep_eq, hreports]
  rfl

/-- The no-op cycles come before such a read (R128). -/
theorem runUndisturbed_setmode_noops (h : s.seq = .setmode target .s2) (hm : ¬ ModeIs (trunc3 target) s) (n : Nat) :
    runUndisturbed (n + 2) s = s.goto (.setmode target .s1) := by
  have hpoll : pollFails s = false := by simp only [pollFails, h]
  have hmicro : microStep s = s.goto (.setmode target .s3) := by simp only [microStep, h, microSetmode]
  rw [runUndisturbed_succ hpoll, hmicro]
  exact AtModeRead.runUndisturbed_fails (s := s.goto (.setmode target .s3)) (.inr rfl) hm n

/-- The request comes before those (R126). -/
theorem runUndisturbed_setmode_request (h : s.seq = .setmode target .s1) (hm : ¬ ModeIs (trunc3 target) s) (n : Nat) :
    runUndisturbed (n + 3) s = (s.write .modeReq ((trunc3 target).setWidth 8)).goto (.setmode target .s1) := by
  have hpoll : pollFails s = false := by simp only [pollFails, h]
  have hmicro : microStep s = (s.write .modeReq ((trunc3 target).setWidth 8)).goto (.setmode target .s2) := by
    simp only [microStep, h, microSetmode]
  rw [runUndisturbed_succ hpoll, hmicro]
  exact runUndisturbed_setmode_noops (s := (s.write .modeReq _).goto (.setmode target .s2)) rfl hm n

end Undisturbed

namespace Alone
variable {i : Instr} {target : Byte} {s : State}

theorem blockTurn_eq (h : Alone i s) : blockTurn s = runUndisturbed undisturbedBound s := by
  rw [blockTurn, h.undisturbed]

/-- A command that its undisturbed turn does not end is still undisturbed. -/
theorem stays (h : Alone i s) (hbusy : ¬ SeqIdle (blockTurn s)) : Alone i (blockTurn s) := by
  obtain ⟨k, -, hturn⟩ := runUndisturbed_eq undisturbedBound s
  have hagenda : Undisturbed (blockTurn s) := by
    rw [h.blockTurn_eq, hturn, Undisturbed, microSteps_agenda]
    exact h.undisturbed
  have hfetch : fetchWord (blockTurn s) = none := by
    rw [fetchWord_eq_none, blockTurn_port]
    exact (fetchWord_eq_none.1 h.next.2).imp_right fun ⟨_, hwaits⟩ => ⟨hbusy, hwaits⟩
  exact ⟨((blockTurn_command s).resolve_left hbusy).trans h.command, hagenda,
    fun _ _ e => List.cons_ne_nil _ _ (e.symm.trans hagenda), hfetch⟩

/-- SETMODE reads the target within its next three micro-steps, if that is the mode. -/
theorem setmode_ends (h : Alone (.setmode target) s) (hm : ModeIs (trunc3 target) s) : SeqIdle (blockTurn s) := by
  have hread : ∃ j < undisturbedBound, AtModeRead target (microSteps j s) := by
    obtain ⟨l, hl⟩ := commandOf_eq_setmode_iff.1 h.command
    cases l with
    | s0 => exact ⟨0, by decide, .inl hl⟩
    | s1 => exact ⟨2, by decide, .inr (by simp [microSteps, microStep, hl, microSetmode])⟩
    | s2 => exact ⟨1, by decide, .inr (by simp [microSteps, microStep, hl, microSetmode])⟩
    | s3 => exact ⟨0, by decide, .inr hl⟩
  obtain ⟨j, hj, hat⟩ := hread
  have hlength : turnLength s = undisturbedBound := by simp only [turnLength, h.undisturbed]
  exact (blockTurn_setmode_idle_iff h.command).2 ⟨j, hlength ▸ hj, hat, (microSteps_modeStat j s).trans hm⟩

/-- In another mode its turn ends with a failed read, before the request. -/
theorem setmode_fails (h : Alone (.setmode target) s) (hm : ¬ ModeIs (trunc3 target) s) :
    (blockTurn s).seq = .setmode target .s1 := by
  obtain ⟨l, hl⟩ := commandOf_eq_setmode_iff.1 h.command
  rw [h.blockTurn_eq]
  cases l with
  | s0 => exact congrArg State.seq (AtModeRead.runUndisturbed_fails (.inl hl) hm 15)
  | s1 => exact congrArg State.seq (runUndisturbed_setmode_request hl hm 13)
  | s2 => exact congrArg State.seq (runUndisturbed_setmode_noops hl hm 14)
  | s3 => exact congrArg State.seq (AtModeRead.runUndisturbed_fails (.inr hl) hm 15)

/-- So after two turns the request has been made (R126). -/
theorem setmode_requests (h : Alone (.setmode target) s) (hm : ¬ ModeIs (trunc3 target) s) :
    ∃ t, RunsTo 2 s t ∧ t.seq = .setmode target .s1 ∧ t.bank.modeReq = trunc3 target := by
  have hseq := h.setmode_fails hm
  have hagain : Alone (.setmode target) (blockTurn s) := h.stays (by rw [SeqIdle, hseq]; nofun)
  have hmode : ¬ ModeIs (trunc3 target) (blockTurn s) := by rwa [ModeIs, blockTurn_modeStat]
  refine ⟨_, runsTo_snoc (runsTo_snoc rfl (step_of_blockTurnNext h.next)) (step_of_blockTurnNext hagain.next),
    hagain.setmode_fails hmode, ?_⟩
  rw [hagain.blockTurn_eq, undisturbedBound, runUndisturbed_setmode_request hseq hmode 13]
  exact setWidth_setWidth_byte (trunc3 target) (by decide)

end Alone

/-! ### SETMODE under R192's premise -/

/-- SETMODE finishes if a read returns the target after the request (R192). -/
theorem setmode_finishes_of_reports {target : Byte} {s : State} (hc : commandOf s.seq = some (.setmode target))
    (hreports : PeriphEventuallyReports target s) : ∃ k t, RunsTo k s t ∧ SeqIdle t := by
  obtain ⟨k, t, -, hrun, hi | ⟨-, halone⟩⟩ := runsTo_idle_or_alone (P := fun _ => True) (fun _ _ _ _ _ => .inl trivial) hc trivial
  · exact ⟨k, t, hrun, hi⟩
  · by_cases hm : ModeIs (trunc3 target) t
    · exact ⟨k + 1, blockTurn t, runsTo_snoc hrun (step_of_blockTurnNext halone.next), halone.setmode_ends hm⟩
    · obtain ⟨u, hu, hseq, hreq⟩ := halone.setmode_requests hm
      have hrequested := runsTo_add hrun hu
      obtain ⟨j, v, hv, hread⟩ := hreports _ u .s1 hrequested hseq hreq
      obtain ⟨w, hstep, hi⟩ := step_idle_of_readReturnsTarget hread
      exact ⟨_, w, runsTo_snoc (runsTo_add hrequested hv) hstep, hi⟩

/-! ### The obligation -/

/-- Settles O27: undisturbed, SETMODE makes its request, after which R192's premise gives the read; and the mode the peripheral reports
last is the mode then. -/
theorem setmodeFinishesIfThePeripheralReports : Obligations.SetmodeFinishesIfThePeripheralReports := by
  unfold Obligations.SetmodeFinishesIfThePeripheralReports
  intro target l s hl
  have hc : commandOf s.seq = some (.setmode target) := commandOf_eq_setmode_iff.2 ⟨l, hl⟩
  refine ⟨setmode_finishes_of_reports hc, fun hsettles => ?_⟩
  refine runsTo_idle_within (P := PeriphSettlesOn (trunc3 target)) (fun u v hu hm hstep => ?_) (fun u hm halone => ?_) hc hsettles
  · exact .inl (step_busy_settlesOn (ne_idle_of_commandOf hu) hm hstep)
  · rw [PeriphSettlesOn, halone.undisturbed] at hm
    exact halone.setmode_ends hm

end Sys2Proof.Machine
end

section
/-! SUPPORT. AWAIT, SEND and SENDSYNC finish if the peripheral clears `TXREQ` (R170, R192): an undisturbed turn of theirs ends at IDLE or
with a message pending, which R192's premise excludes. -/

namespace Sys2Proof.Machine

/-- AWAIT, SEND or SENDSYNC: the commands that wait for `TXREQ` (R155, R158, R168). -/
abbrev IsWaiting (i : Instr) : Prop := i = .await ∨ IsTransmit i

/-- A command that waits is in one of the places of the wait, or at a label of SEND's. -/
theorem waiting_place {i : Instr} (hi : IsWaiting i) {s : State} (hc : commandOf s.seq = some i) :
    (∃ w l, s.seq = WaitPlace.seqAt w l) ∨ ∃ x m l, s.seq = Sender.seqAt x m l := by
  have htransmit (x : Sender) (m : Message) (hc : commandOf s.seq = some (x.instr m)) :
      (∃ w l, s.seq = WaitPlace.seqAt w l) ∨ ∃ x m l, s.seq = Sender.seqAt x m l :=
    (transmit_place hc).symm.imp (fun ⟨l, hl⟩ => ⟨.second m, l, hl⟩) (fun ⟨l, hl⟩ => ⟨x, m, l, hl⟩)
  rcases hi with rfl | ⟨m, rfl | rfl⟩
  · cases e : s.seq with
    | await l => exact .inl ⟨.await, l, rfl⟩
    | _ => rw [e] at hc; cases hc
  · exact htransmit .send m hc
  · exact htransmit .sendsync m hc

/-! ### The micro-steps left while no poll fails -/

/-- The most micro-steps the wait takes from a label while no poll fails. -/
def waitLeft : AwaitLabel → Nat
  | .a0 => 1
  | .a1 => 3
  | .a2 => 2

/-- The most SEND's micro-steps take from a label while no poll fails. -/
def messageLeft : SendLabel → Nat
  | .s0 => 14
  | .wait l => 12 + waitLeft l
  | .s1 => 12
  | .s2 => 11
  | .s3 => 10
  | .s4 i => 9 - i.val
  | .s5 => 1

/-- The most micro-steps a command that waits still takes while no poll fails. -/
def waitingLeft : Seq → Nat
  | .await l => waitLeft l
  | .send _ l => messageLeft l
  | .sendsync _ (.send l) => messageLeft l + 1
  | .sendsync _ (.wait l) => waitLeft l
  | _ => 0

theorem waitLeft_bounds (l : AwaitLabel) : 0 < waitLeft l ∧ waitLeft l ≤ 3 := by
  cases l <;> decide

theorem messageLeft_bounds (l : SendLabel) : 0 < messageLeft l ∧ messageLeft l ≤ 15 := by
  cases l with
  | wait l => have h := waitLeft_bounds l; simp only [messageLeft]; omega
  | s4 i => simp only [messageLeft]; omega
  | s0 | s1 | s2 | s3 | s5 => decide

theorem waitingLeft_waitPlace (w : WaitPlace) (l : AwaitLabel) : waitingLeft (w.seqAt l) = waitLeft l + waitingLeft w.seqAfter := by
  rcases w with _ | ⟨_ | _, m⟩ | m <;>
    simp only [WaitPlace.seqAt, WaitPlace.seqAfter, Sender.seqAt, waitingLeft, messageLeft] <;> omega

theorem waitingLeft_sender (x : Sender) (m : Message) (l : SendLabel) :
    waitingLeft (x.seqAt m l) = messageLeft l + waitingLeft (x.seqAfter m) := by
  cases x <;> rfl

/-- SENDSYNC takes the most, from A1 to its second A0. -/
theorem waitingLeft_le (q : Seq) : waitingLeft q ≤ undisturbedBound := by
  unfold undisturbedBound
  cases q with
  | await l => have h := waitLeft_bounds l; simp only [waitingLeft]; omega
  | send _ l => have h := messageLeft_bounds l; simp only [waitingLeft]; omega
  | sendsync _ l =>
    cases l with
    | send l => have h := messageLeft_bounds l; simp only [waitingLeft]; omega
    | wait l => have h := waitLeft_bounds l; simp only [waitingLeft]; omega
  | _ => simp [waitingLeft]

theorem waitingLeft_pos {i : Instr} (hi : IsWaiting i) {s : State} (hc : commandOf s.seq = some i) : 0 < waitingLeft s.seq := by
  rcases waiting_place hi hc with ⟨w, l, hl⟩ | ⟨x, m, l, hl⟩
  · rw [hl, waitingLeft_waitPlace]
    exact Nat.add_pos_left (waitLeft_bounds l).1 _
  · rw [hl, waitingLeft_sender]
    exact Nat.add_pos_left (messageLeft_bounds l).1 _

/-- The wait goes on nearer to its end, but for a read at A0 that returns 1. -/
theorem waitLeft_microWait {l l' : AwaitLabel} {s : State} (hpoll : (l == .a0 && txreqSet s) = false)
    (h : (microWait l s).2 = some l') : waitLeft l' < waitLeft l := by
  cases l with
  | a0 =>
    have hclear : txreqSet s = false := hpoll
    simp [microWait, hclear] at h
  | a1 =>
    simp only [microWait, Option.some.injEq] at h
    subst h
    split <;> decide
  | a2 => cases h; decide

/-- The next data step or `S5` is nearer to the end by one (R165). -/
theorem messageLeft_afterData (m : Message) {n : Nat} (hn : n ≤ 8) : messageLeft (afterData m n) ≤ 9 - n := by
  unfold afterData
  split
  · split
    · exact Nat.le_refl _
    · simp only [messageLeft]; omega
  · simp only [messageLeft]; omega

theorem messageLeft_microMessage {m : Message} {l l' : SendLabel} {s : State} (hpoll : (l == .wait .a0 && txreqSet s) = false)
    (h : (microMessage m l s).2 = some l') : messageLeft l' < messageLeft l := by
  cases l with
  | wait l =>
    rw [microMessage_wait] at h
    cases hw : (microWait l s).2 with
    | none =>
      obtain rfl : l' = .s1 := by rw [hw] at h; exact (Option.some.inj h).symm
      exact Nat.lt_add_of_pos_right (waitLeft_bounds l).1
    | some k =>
      obtain rfl : l' = .wait k := by rw [hw] at h; exact (Option.some.inj h).symm
      exact Nat.add_lt_add_left (waitLeft_microWait (by simpa using hpoll) hw) 12
  | s3 =>
    cases h
    exact Nat.lt_succ_of_le (messageLeft_afterData m (Nat.zero_le 8))
  | s4 i =>
    cases h
    have hnext : messageLeft (afterData m (i.val + 1)) ≤ 9 - (i.val + 1) := messageLeft_afterData m i.isLt
    have hnow : messageLeft (.s4 i) = 9 - i.val := rfl
    omega
  | s0 | s1 | s2 => cases h; decide
  | s5 => cases h

/-- A micro-step that is no failed poll brings the command nearer to its end. -/
theorem waitingLeft_microStep {i : Instr} (hi : IsWaiting i) {s : State} (hc : commandOf s.seq = some i)
    (hpoll : pollFails s = false) : waitingLeft (microStep s).seq < waitingLeft s.seq := by
  rcases waiting_place hi hc with ⟨w, l, hl⟩ | ⟨x, m, l, hl⟩
  · rw [pollFails_wait hl] at hpoll
    rw [microStep_wait hl, State.goto_seq, hl, waitingLeft_waitPlace]
    cases hnext : (microWait l s).2 with
    | none => exact Nat.lt_add_of_pos_left (waitLeft_bounds l).1
    | some l' =>
      rw [WaitPlace.seqNext, waitingLeft_waitPlace]
      exact Nat.add_lt_add_right (waitLeft_microWait hpoll hnext) _
  · rw [pollFails_sender hl] at hpoll
    rw [microStep_sender hl, State.goto_seq, hl, waitingLeft_sender]
    cases hnext : (microMessage m l s).2 with
    | none => exact Nat.lt_add_of_pos_left (messageLeft_bounds l).1
    | some l' =>
      rw [Sender.seqNext, waitingLeft_sender]
      exact Nat.add_lt_add_right (messageLeft_microMessage hpoll hnext) _

/-! ### The undisturbed turn -/

/-- A poll that fails has read `TXREQ` = 1, and changes nothing of the bank. -/
theorem microStep_txreq_of_pollFails {i : Instr} (hi : IsWaiting i) {s : State} (hc : commandOf s.seq = some i)
    (hpoll : pollFails s = true) : (microStep s).bank.txreq = 1#1 := by
  have hplace : ∃ w : WaitPlace, s.seq = w.seqAt .a0 ∧ txreqSet s = true := by
    rcases waiting_place hi hc with ⟨w, l, hl⟩ | ⟨x, m, l, hl⟩
    · rw [pollFails_wait hl, Bool.and_eq_true, beq_iff_eq] at hpoll
      obtain ⟨rfl, htx⟩ := hpoll
      exact ⟨w, hl, htx⟩
    · rw [pollFails_sender hl, Bool.and_eq_true, beq_iff_eq] at hpoll
      obtain ⟨rfl, htx⟩ := hpoll
      exact ⟨.first x m, hl, htx⟩
  obtain ⟨w, hw, htx⟩ := hplace
  have hpending := (txreqSet_iff s).1 htx
  rw [microStep_a0_pending hw hpending]
  exact hpending

/-- An undisturbed run long enough ends at IDLE, or a poll in it failed. -/
theorem runUndisturbed_waiting {i : Instr} (hi : IsWaiting i) {n : Nat} {s : State}
    (hc : SeqIdle s ∨ commandOf s.seq = some i) (hn : waitingLeft s.seq ≤ n) :
    SeqIdle (runUndisturbed n s) ∨ (runUndisturbed n s).bank.txreq = 1#1 := by
  induction n generalizing s with
  | zero => exact hc.imp_right fun hc => absurd (waitingLeft_pos hi hc) (Nat.not_lt.2 hn)
  | succ n ih =>
    rcases hc with hidle | hc
    · rw [runUndisturbed_idle _ hidle]
      exact .inl hidle
    · cases hpoll : pollFails s with
      | true =>
        rw [runUndisturbed, if_pos hpoll]
        exact .inr (microStep_txreq_of_pollFails hi hc hpoll)
      | false =>
        rw [runUndisturbed_succ hpoll]
        have hless := waitingLeft_microStep hi hc hpoll
        exact ih ((microStep_command s).imp_right (·.trans hc)) (by omega)

theorem Alone.waiting_ends {i : Instr} {s : State} (h : Alone i s) (hi : IsWaiting i) :
    SeqIdle (blockTurn s) ∨ (blockTurn s).bank.txreq = 1#1 := by
  rw [h.blockTurn_eq]
  exact runUndisturbed_waiting hi (.inr h.command) (waitingLeft_le s.seq)

/-! ### R192's premise -/

theorem blockTurn_undisturbed {s : State} (h : Undisturbed s) : Undisturbed (blockTurn s) := by
  obtain ⟨k, -, e⟩ := runUndisturbed_eq undisturbedBound s
  simp only [blockTurn, h, e, Undisturbed, microSteps_agenda]

/-- No step gives another agent a turn. -/
theorem step_undisturbed {s t : State} (h : Undisturbed s) (hstep : step s = .next t) : Undisturbed t := by
  rcases step_cases hstep with ⟨a, rest, ha, -⟩ | ⟨-, ⟨-, rfl⟩ | ⟨w, rest, i, -, -, -, he⟩⟩
  · exact absurd (ha.symm.trans h) (List.cons_ne_nil _ _)
  · exact blockTurn_undisturbed h
  · cases hp : i.isPure with
    | true =>
      obtain ⟨r, -, e⟩ := exec_pure hp { s with port := rest }
      cases e.symm.trans he
      exact h
    | false =>
      obtain ⟨first, refusal, -, e⟩ := exec_stateful hp { s with port := rest }
      rw [e] at he
      rcases acceptCommand_cases first refusal { s with port := rest } with ⟨-, ha⟩ | ⟨-, r, -, ha⟩ | ⟨-, -, ha⟩ <;>
        cases ha.symm.trans he
      · exact h
      · exact blockTurn_undisturbed (s := { s with port := rest, seq := first }) h

theorem runsTo_undisturbed {k : Nat} {s t : State} (h : Undisturbed s) (hrun : RunsTo k s t) : Undisturbed t := by
  induction k generalizing s with
  | zero => cases hrun; exact h
  | succ k ih =>
    obtain ⟨u, hu, hrest⟩ := runsTo_succ_iff.1 hrun
    exact ih (step_undisturbed h hu) hrest

/-- Under R192's premise no message is pending once the block runs undisturbed, for nobody is left to clear `TXREQ`. -/
theorem not_pending_of_undisturbed {k : Nat} {s t : State} (h : PeriphEventuallyClearsTxreq s) (hrun : RunsTo k s t)
    (ht : Undisturbed t) : t.bank.txreq ≠ 1#1 := by
  intro htx
  obtain ⟨j, u, rest, hu, hclears⟩ := h k t hrun htx
  exact List.cons_ne_nil _ _ (hclears.symm.trans (runsTo_undisturbed ht hu))

theorem waiting_finishes_of_eventuallyClears {i : Instr} (hi : IsWaiting i) {s : State} (hc : commandOf s.seq = some i)
    (hclears : PeriphEventuallyClearsTxreq s) :
    ∃ k t, k ≤ s.agenda.length + s.port.length + 1 ∧ RunsTo k s t ∧ SeqIdle t := by
  obtain ⟨k, t, hk, hrun, hidle | ⟨-, halone⟩⟩ :=
    runsTo_idle_or_alone (P := fun _ => True) (fun _ _ _ _ _ => .inl trivial) hc trivial
  · exact ⟨k, t, Nat.le_succ_of_le hk, hrun, hidle⟩
  · have hlast : RunsTo (k + 1) s (blockTurn t) := runsTo_snoc hrun (step_of_blockTurnNext halone.next)
    have hclear := not_pending_of_undisturbed hclears hlast (blockTurn_undisturbed halone.undisturbed)
    exact ⟨k + 1, blockTurn t, Nat.succ_le_succ hk, hlast, (halone.waiting_ends hi).resolve_right hclear⟩

/-! ### One clear on the agenda -/

/-- AWAIT and SEND wait once: `TXREQ` stays 0 until their end. -/
abbrev WaitsOnce (i : Instr) : Prop := i = .await ∨ ∃ m, i = .send m

theorem blockTurn_txIdle {i : Instr} (hi : WaitsOnce i) {s : State} (hc : commandOf s.seq = some i) (htx : TxIdle s) :
    TxIdle (blockTurn s) ∨ SeqIdle (blockTurn s) := by
  rcases hi with rfl | ⟨m, rfl⟩
  · obtain ⟨q, rest, a, hframe⟩ := works_await_frame (s := s) (.inr ⟨hc, rfl⟩)
    rw [hframe]
    exact .inl htx
  · have hfree : SendUnblocked s := by
      cases e : s.seq with
      | send m' l => exact .inr ⟨m', l, e, htx⟩
      | _ => rw [e] at hc; cases hc
    rcases blockTurn_induct (fun _ _ h => h) (fun _ h => h.next) s hfree with hidle | ⟨_, _, -, hstill⟩
    · exact .inr hidle
    · exact .inl hstill

/-- `TXREQ` is 0, or the peripheral still has a turn that clears it. -/
abbrev ClearsOrCleared (s : State) : Prop := TxIdle s ∨ PeriphStillClears s

/-- The steps of AWAIT and SEND keep that, until the command ends. -/
theorem step_clearsOrCleared {i : Instr} (hi : WaitsOnce i) {s t : State} (hc : commandOf s.seq = some i) (h : ClearsOrCleared s)
    (hstep : step s = .next t) : ClearsOrCleared t ∨ SeqIdle t := by
  rcases step_cases hstep with ⟨a, rest, ha, rfl⟩ | ⟨hno, ⟨-, rfl⟩ | ⟨w, rest, j, -, -, hj, he⟩⟩
  · refine .inl ?_
    rcases h with htx | hclears
    · exact .inl (perform_txreq { s with agenda := rest } a htx)
    · rw [PeriphStillClears, ha, List.mem_cons] at hclears
      rcases hclears with hnow | hlater
      · cases hnow
        exact .inl rfl
      · obtain ⟨-, -, -, -, hagenda⟩ := perform_frame { s with agenda := rest } a
        exact .inr (by rw [PeriphStillClears, hagenda]; exact hlater)
  · rcases h with htx | hclears
    · exact (blockTurn_txIdle hi hc htx).imp_left .inl
    · rcases ha : s.agenda with _ | ⟨a | k, rest⟩
      · rw [PeriphStillClears, ha] at hclears
        exact absurd hclears List.not_mem_nil
      · exact absurd ha (hno a rest)
      · rw [PeriphStillClears, ha] at hclears
        rw [blockTurn_granted ha]
        exact .inl (.inr ((List.mem_cons.1 hclears).resolve_left nofun))
  · obtain ⟨r, -, e⟩ := exec_pure (hj.resolve_left (ne_idle_of_commandOf hc)) { s with port := rest }
    cases e.symm.trans he
    exact .inl h

/-- With the clears used up, the undisturbed turn finds `TXREQ` = 0 and ends. -/
theorem Alone.waitsOnce_ends {i : Instr} {s : State} (h : Alone i s) (hi : WaitsOnce i) (hclear : ClearsOrCleared s) :
    SeqIdle (blockTurn s) := by
  have htx : TxIdle s := hclear.resolve_right fun hmem => by
    rw [PeriphStillClears, h.undisturbed] at hmem
    exact absurd hmem List.not_mem_nil
  have hwaiting : IsWaiting i := hi.imp_right fun ⟨m, hm⟩ => ⟨m, .inl hm⟩
  rcases blockTurn_txIdle hi h.command htx with hstill | hidle
  · exact (h.waiting_ends hwaiting).resolve_right ((txIdle_iff _).1 hstill)
  · exact hidle

/-! ### The obligation -/

/-- Settles O39: undisturbed, a command that waits ends its turn at IDLE or with a message pending; R192's premise excludes the latter, and
for AWAIT and SEND so does a clear that stands on the agenda. -/
theorem awaitFinishesIfThePeripheralClears : Obligations.AwaitFinishesIfThePeripheralClears := by
  unfold Obligations.AwaitFinishesIfThePeripheralClears
  intro s hcommand hclears
  rcases hclears with hclears | ⟨hclears, hno⟩
  · obtain ⟨i, hi, hc⟩ : ∃ i, IsWaiting i ∧ commandOf s.seq = some i := by
      rcases hcommand with hc | ⟨m, hc⟩ | ⟨m, hc⟩
      · exact ⟨_, .inl rfl, hc⟩
      · exact ⟨_, .inr ⟨m, .inl rfl⟩, hc⟩
      · exact ⟨_, .inr ⟨m, .inr rfl⟩, hc⟩
    exact waiting_finishes_of_eventuallyClears hi hc hclears
  · obtain ⟨i, hi, hc⟩ : ∃ i, WaitsOnce i ∧ commandOf s.seq = some i := by
      rcases hcommand with hc | ⟨m, hc⟩ | ⟨m, hc⟩
      · exact ⟨_, .inl rfl, hc⟩
      · exact ⟨_, .inr ⟨m, rfl⟩, hc⟩
      · exact absurd hc (hno m)
    exact runsTo_idle_within (P := ClearsOrCleared) (fun _ _ => step_clearsOrCleared hi)
      (fun _ hclear halone => halone.waitsOnce_ends hi hclear) hc (.inr hclears)

end Sys2Proof.Machine
end

section
/-! SUPPORT. Power-on and the filter calls (70_reset_and_hazards.md): why FSTRICT and FFIRST are refused (R202, R146), and the invariants
at power-on (R201). -/

namespace Sys2Proof.Machine

/-! ### The filter calls and their refusal -/

section FilterRefusal
variable {s : State}

theorem filterRefusal_beforeInit (hd : ¬ InitDone s) : filterRefusal s = some .statefulBeforeInit := if_neg hd

theorem filterRefusal_counterFull (hd : InitDone s) (hf : s.fsc = 255#8) : filterRefusal s = some .fscOverflow :=
  (if_pos hd).trans (if_pos hf)

end FilterRefusal

/-- Both filter calls are presented with the one reason for a refusal (R135, R139). -/
theorem exec_filter_eq_acceptCommand {i : Instr} {nodeID messageType : Byte}
    (h : i = .fstrict nodeID messageType ∨ i = .ffirst nodeID messageType) (s : State) :
    ∃ first, exec i s = acceptCommand first (filterRefusal s) s := by
  rcases h with rfl | rfl
  · exact ⟨.fstrict nodeID messageType .s0, rfl⟩
  · exact ⟨.ffirst nodeID messageType (.strict .s0), rfl⟩

/-! ### Power-on -/

/-- At IDLE no label is left to check. -/
theorem seqOk_of_idle {s : State} (hi : SeqIdle s) : seqOk s = true := by rw [seqOk, hi]

/-- The zeros of power-on are a legal length, standard-format identifiers and a mode code (log entry 1). -/
theorem bankOk_powerOn : bankOk Bank.powerOn = true := by decide

/-! ### The obligations -/

/-- Settles O31: the three cases are those of `filterRefusal`, which both calls share. -/
theorem filterCallsAreRefusedExactlyWhenTheCounterCannotServe :
    Obligations.FilterCallsAreRefusedExactlyWhenTheCounterCannotServe := by
  unfold Obligations.FilterCallsAreRefusedExactlyWhenTheCounterCannotServe
  intro i nodeID messageType s hcall hi
  obtain ⟨first, hexec⟩ := exec_filter_eq_acceptCommand hcall s
  rw [hexec]
  refine ⟨fun hd => ?_, fun hd hf => ?_, fun hd hf => ?_⟩
  · exact acceptCommand_refused hi (filterRefusal_beforeInit hd)
  · exact acceptCommand_refused hi (filterRefusal_counterFull hd hf)
  · exact ⟨_, acceptCommand_accepted hi (filterRefusal_eq_none hd hf)⟩

/-- Settles O49: the sequencer is IDLE, the timestamp 0, and the bank that of power-on. -/
theorem powerOnMeetsTheInvariant : Obligations.PowerOnMeetsTheInvariant := by
  unfold Obligations.PowerOnMeetsTheInvariant
  exact ⟨⟨seqOk_of_idle rfl, Nat.two_pow_pos _⟩, bankOk_powerOn⟩

end Sys2Proof.Machine
end
